-- ==== Sys2Proof/Word.lean ====
section
/-! DEFINITION. The framer's bit-vector types (00_scope.md rule R10). Every value is unsigned. -/

namespace Sys2Proof

/-- An 8-bit value: a wire byte, a command code, a checksum. -/
abbrev Byte := BitVec 8

/-- A 32-bit value: the host data bus, an operation word. -/
abbrev Word := BitVec 32

/-- A 13-bit byte address of the host register window (rule R60). -/
abbrev BusAddr := BitVec 13

end Sys2Proof
end

