-- ==== Sys2Proof/Config.lean ====
section
/-! DEFINITION. What an instantiation fixes (00_scope.md rules R6, R7, R9), the moves the agents of rule R5 can
make, and the free values of 93_implementation_defined.md. An opaque constant has no body: nothing is known of
it but its type, so a statement proved holds for every value. -/

namespace Sys2Proof

/-- The instantiation parameters a rule reads. State holds them, so that a statement about every state is a
statement about every instantiation (notes/assumptions/2.md); no step changes them. -/
structure Params where
  /-- MARKER, the start-marker byte (rule R6). -/
  marker   : Byte
  /-- T_DRAIN in ms, below 2^16 (rule R7). -/
  tDrain   : BitVec 16
  /-- T_FIRST in ms (rule R7). -/
  tFirst   : BitVec 16
  /-- T_BYTE in ms (rule R7). -/
  tByte    : BitVec 16
  /-- RXQ_DEPTH, at least 1 (rule R9). -/
  rxqDepth : Nat
  deriving DecidableEq, Repr

/-- One step of one agent (rule R5), with the input it brings. -/
inductive Move where
  /-- The engine's next micro-step. -/
  | engine
  /-- `MemRead(addr, 4)` (20_memory.md rule R61). -/
  | hostRead (addr : BusAddr)
  /-- `MemWrite(addr, 4, v)` (20_memory.md rule R62). -/
  | hostWrite (addr : BusAddr) (v : Word)
  /-- A byte arrives from the link. `lost` says which byte goes if `rxq` is full: an index into
  `rxq ++ [b]` (93_implementation_defined.md row 10; notes/assumptions/8.md). -/
  | linkRx (b : Byte) (lost : Nat)
  /-- The link takes `n` bytes from the front of `txq` (notes/assumptions/9.md). -/
  | linkTx (n : Nat)
  /-- One millisecond passes (rule R8). -/
  | clock
  /-- The reset input takes this level (70_reset_and_hazards.md rule R280; notes/assumptions/6.md). -/
  | rst (level : Bool)
  deriving DecidableEq, Repr, Inhabited

/-- MARKER as this spec takes it (rule R6, decision D2). -/
def Config.marker : Byte := 0xAA

/-- T_DRAIN of the instantiation that `State.reset` is: OPEN (rule R7, decision D3). -/
opaque Config.tDrain : BitVec 16
/-- T_FIRST, OPEN. -/
opaque Config.tFirst : BitVec 16
/-- T_BYTE, OPEN. -/
opaque Config.tByte : BitVec 16
/-- RXQ_DEPTH less one, OPEN (rule R9: at least 1). -/
opaque Config.rxqDepthPred : Nat

def Config.params : Params where
  marker := Config.marker
  tDrain := Config.tDrain
  tFirst := Config.tFirst
  tByte := Config.tByte
  rxqDepth := Config.rxqDepthPred + 1

/-- FRAMER_BASE, where the window sits in the host's map: OPEN, and no framer rule reads it (rule R72). -/
opaque Config.framerBase : Nat

/-- `now` at power-on: any value (93_implementation_defined.md row 5). -/
opaque Config.resetTime : Word
/-- `e.t0` at power-on: any value (row 6). -/
opaque Config.resetT0 : Word
/-- What `rxq` holds at power-on: any bytes (row 7). `State.reset` keeps at most RXQ_DEPTH of them. -/
opaque Config.resetRxq : List Byte

/-- `e.t0` after the `draws`-th draw, at an assertion of `rst` (row 6). -/
opaque Config.freeTime (draws : Nat) : Word
/-- The value of an engine-written register read while BUSY = 1 (row 8). -/
opaque Config.freeRead (draws : Nat) : Word
/-- Which agent moves next, and with what input, where nothing is scheduled (row 9). -/
opaque Config.freeMove (draws : Nat) : Move

end Sys2Proof
end

