-- ==== Sys2Proof/Syntax.lean ====
section
/-! DEFINITION. The operations an operation word can select: one constructor per row of the opcode map
(30_encoding.md rule R102). An operand is a field the operation uses; ignored fields (rule R98) stay in CTRL. -/

namespace Sys2Proof

inductive Instr where
  /-- Rule R142. -/
  | encodeBuf (cmd : Byte)
  /-- Rule R143. -/
  | encodeZ (cmd : Byte)
  /-- Rule R144. `arg` is ARG[7:0]. -/
  | encodeB (cmd : Byte) (arg : Byte)
  /-- Rule R145. -/
  | encodeH (cmd : Byte) (arg : BitVec 16)
  /-- Rule R231. `rply` is the RPLY bit. -/
  | transactBuf (rply : Bool) (cmd : Byte)
  /-- Rule R232. -/
  | transactZ (rply : Bool) (cmd : Byte)
  /-- Rule R233. `arg` is ARG[7:0]. -/
  | transactB (rply : Bool) (cmd : Byte) (arg : Byte)
  /-- Rule R234. -/
  | transactH (rply : Bool) (cmd : Byte) (arg : BitVec 16)
  /-- Rule R161. -/
  | drain
  /-- Rule R163. -/
  | send
  /-- Rule R210. -/
  | receive
  /-- Rule R182. `ms` is the budget, ARG. -/
  | waitbyte (ms : BitVec 16)
  deriving DecidableEq, Repr

end Sys2Proof
end

