-- ==== Sys2Proof/WellFormed.lean ====
section
/-! DEFINITION. The fields of an operation word (30_encoding.md rule R90) and when they are legal (rule R97).
An `Instr` is legal by its types alone; what can be ill-formed is a tuple of fields. -/

namespace Sys2Proof

/-- The six fields of an operation word, from bit 31 down (rule R90). -/
structure OpWord where
  arg   : BitVec 16
  cmd   : BitVec 8
  rsv   : BitVec 1
  rply  : BitVec 1
  shape : BitVec 2
  op    : BitVec 4
  deriving DecidableEq, Repr

/-- Rule R97, item 1. -/
def OpWord.opKnown (f : OpWord) : Bool := decide (1 ≤ f.op.toNat) && decide (f.op.toNat ≤ 6)

/-- Rule R97, item 2. -/
def OpWord.rsvClear (f : OpWord) : Bool := f.rsv == 0

/-- Rule R97, item 3: RPLY is only meaningful for TRANSACT. -/
def OpWord.rplyAllowed (f : OpWord) : Bool := f.op == 2 || f.rply == 0

/-- Rule R97, item 4: only ENCODE and TRANSACT take a shape. -/
def OpWord.shapeAllowed (f : OpWord) : Bool := decide (f.op.toNat < 3 ∨ 6 < f.op.toNat) || f.shape == 0

/-- Rule R97. -/
def OpWord.legal (f : OpWord) : Bool :=
  f.opKnown && f.rsvClear && f.rplyAllowed && f.shapeAllowed

end Sys2Proof
end

