-- ==== Sys2Proof/Decode.lean ====
section
/-! DEFINITION. Operation words: fields, decoder, encoder, opcode map, assembler names (30_encoding.md). -/

namespace Sys2Proof

/-- The fields of a word (rule R90). -/
def OpWord.ofWord (w : Word) : OpWord where
  arg   := w.extractLsb' 16 16
  cmd   := w.extractLsb' 8 8
  rsv   := w.extractLsb' 7 1
  rply  := w.extractLsb' 6 1
  shape := w.extractLsb' 4 2
  op    := w.extractLsb' 0 4

/-- The word of some fields (rule R90). -/
def OpWord.toWord (f : OpWord) : Word :=
  f.arg ++ f.cmd ++ f.rsv ++ f.rply ++ f.shape ++ f.op

/-- Why a word is no operation word: the item of rule R97 that fails. -/
inductive DecodeError where
  | reservedOp
  | rsvSet
  | rplyNotAllowed
  | shapeNotAllowed
  deriving DecidableEq, Repr

/-- The low byte of ARG, the argument of the B shapes (rule R95). -/
def OpWord.arg8 (f : OpWord) : Byte := f.arg.setWidth 8

/-- ENCODE by its SHAPE (rules R91, R94). -/
def OpWord.encodeOp (f : OpWord) : Instr :=
  match f.shape.toNat with
  | 0 => .encodeBuf f.cmd
  | 1 => .encodeZ f.cmd
  | 2 => .encodeB f.cmd f.arg8
  | _ => .encodeH f.cmd f.arg

/-- TRANSACT by its SHAPE (rules R91, R94). -/
def OpWord.transactOp (f : OpWord) : Instr :=
  match f.shape.toNat with
  | 0 => .transactBuf (f.rply == 1) f.cmd
  | 1 => .transactZ (f.rply == 1) f.cmd
  | 2 => .transactB (f.rply == 1) f.cmd f.arg8
  | _ => .transactH (f.rply == 1) f.cmd f.arg

/-- An operation that takes no shape (rule R97, item 4). -/
def OpWord.unshaped (f : OpWord) (i : Instr) : Except DecodeError Instr :=
  if f.shape = 0 then .ok i else .error .shapeNotAllowed

/-- An operation that takes no RPLY (rule R97, item 3). -/
def OpWord.unreplied (f : OpWord) (r : Except DecodeError Instr) : Except DecodeError Instr :=
  if f.rply = 0 then r else .error .rplyNotAllowed

/-- The operation of some fields, or the item of rule R97 they fail (rules R91, R97, R99). -/
def OpWord.decode (f : OpWord) : Except DecodeError Instr :=
  if f.rsv = 0 then
    match f.op.toNat with
    | 1 => f.unreplied (.ok f.encodeOp)
    | 2 => .ok f.transactOp
    | 3 => f.unreplied (f.unshaped .drain)
    | 4 => f.unreplied (f.unshaped .send)
    | 5 => f.unreplied (f.unshaped .receive)
    | 6 => f.unreplied (f.unshaped (.waitbyte f.arg))
    | _ => .error .reservedOp
  else .error .rsvSet

/-- The decoder, total on every word. -/
def decode (w : Word) : Except DecodeError Instr := (OpWord.ofWord w).decode

/-- The fields the assembler gives an operation, 0 in every ignored one (rule R103). -/
def Instr.fields : Instr → OpWord
  | .encodeBuf cmd           => ⟨0, cmd, 0, 0, 0, 1⟩
  | .encodeZ cmd             => ⟨0, cmd, 0, 0, 1, 1⟩
  | .encodeB cmd arg         => ⟨arg.setWidth 16, cmd, 0, 0, 2, 1⟩
  | .encodeH cmd arg         => ⟨arg, cmd, 0, 0, 3, 1⟩
  | .transactBuf rply cmd    => ⟨0, cmd, 0, BitVec.ofBool rply, 0, 2⟩
  | .transactZ rply cmd      => ⟨0, cmd, 0, BitVec.ofBool rply, 1, 2⟩
  | .transactB rply cmd arg  => ⟨arg.setWidth 16, cmd, 0, BitVec.ofBool rply, 2, 2⟩
  | .transactH rply cmd arg  => ⟨arg, cmd, 0, BitVec.ofBool rply, 3, 2⟩
  | .drain                   => ⟨0, 0, 0, 0, 0, 3⟩
  | .send                    => ⟨0, 0, 0, 0, 0, 4⟩
  | .receive                 => ⟨0, 0, 0, 0, 0, 5⟩
  | .waitbyte ms             => ⟨ms, 0, 0, 0, 0, 6⟩

/-- The assembled word (rule R103). -/
def encode (i : Instr) : Word := i.fields.toWord

/-- A row of the opcode map (rule R102). `care` is the bits its pattern does not mark `x`. -/
structure OpcodeRow where
  mnemonic : String
  value    : Word
  mask     : Word
  care     : Word
  deriving DecidableEq, Repr

/-- The opcode map (rule R102). -/
def opcodeTable : List OpcodeRow :=
  [ ⟨"encode.buf",   0x00000001, 0x000000FF, 0x0000FFFF⟩,
    ⟨"encode.z",     0x00000011, 0x000000FF, 0x0000FFFF⟩,
    ⟨"encode.b",     0x00000021, 0x000000FF, 0x00FFFFFF⟩,
    ⟨"encode.h",     0x00000031, 0x000000FF, 0xFFFFFFFF⟩,
    ⟨"transact.buf", 0x00000002, 0x000000BF, 0x0000FFFF⟩,
    ⟨"transact.z",   0x00000012, 0x000000BF, 0x0000FFFF⟩,
    ⟨"transact.b",   0x00000022, 0x000000BF, 0x00FFFFFF⟩,
    ⟨"transact.h",   0x00000032, 0x000000BF, 0xFFFFFFFF⟩,
    ⟨"drain",        0x00000003, 0x000000FF, 0x000000FF⟩,
    ⟨"send",         0x00000004, 0x000000FF, 0x000000FF⟩,
    ⟨"receive",      0x00000005, 0x000000FF, 0x000000FF⟩,
    ⟨"waitbyte",     0x00000006, 0x000000FF, 0xFFFF00FF⟩ ]

/-- A word matches a row (rule R102). -/
def OpcodeRow.covers (r : OpcodeRow) (w : Word) : Bool := (w &&& r.mask) == r.value

/-- The name of an operation's row (rule R102). -/
def Instr.mnemonic : Instr → String
  | .encodeBuf _       => "encode.buf"
  | .encodeZ _         => "encode.z"
  | .encodeB _ _       => "encode.b"
  | .encodeH _ _       => "encode.h"
  | .transactBuf _ _   => "transact.buf"
  | .transactZ _ _     => "transact.z"
  | .transactB _ _ _   => "transact.b"
  | .transactH _ _ _   => "transact.h"
  | .drain             => "drain"
  | .send              => "send"
  | .receive           => "receive"
  | .waitbyte _        => "waitbyte"

/-- A reply follows the transmit: RPLY = 1 on TRANSACT (rule R90). -/
def Instr.expectsReply : Instr → Bool
  | .encodeBuf _           => false
  | .encodeZ _             => false
  | .encodeB _ _           => false
  | .encodeH _ _           => false
  | .transactBuf rply _    => rply
  | .transactZ rply _      => rply
  | .transactB rply _ _    => rply
  | .transactH rply _ _    => rply
  | .drain                 => false
  | .send                  => false
  | .receive               => false
  | .waitbyte _            => false

/-- The assembler's spelling without operands: the mnemonic, with `.r` where RPLY = 1 (rule R103). -/
def Instr.spelling (i : Instr) : String :=
  if i.expectsReply then i.mnemonic ++ ".r" else i.mnemonic

/-- The host's entry to the decoder. A word has one length, 32 bits (rule R101). -/
def decodeTableWord (nbits w : Nat) : Option Instr :=
  if nbits ≤ 32 then
    match decode (BitVec.ofNat 32 (w % 2 ^ nbits)) with
    | .ok i => some i
    | .error _ => none
  else none

end Sys2Proof
end

