-- ==== Sys2Proof/Machine/State.lean ====
section
/-! DEFINITION. The state of the framer and its link (10_state.md), the reasons a step stops, the state right
after reset (10_state.md rule R46, 70_reset_and_hazards.md rule R280). -/

namespace Sys2Proof.Machine

/-- `e.phase`: where the engine is (rule R40). -/
inductive Phase where
  | idle
  | start
  | drain
  | tx
  | rx
  | wb
  deriving DecidableEq, Repr

/-- `e.next`: what follows a drain, END or TX (rule R40). -/
inductive DrainNext where
  | finish
  | transmit
  deriving DecidableEq, Repr

/-- STATUS.RESULT (rule R25). Codes 6 and 7 are never produced, so they have no name here. -/
inductive OpResult where
  | none
  | ok
  | ckfail
  | timeout
  | illegal
  | noframe
  deriving DecidableEq, Repr

/-- The byte buffers of the register window (rule R39). -/
inductive Buf where
  | tx
  | frame
  | rx
  deriving DecidableEq, Repr

/-- The buffer entries of the window: (byte address, value), addresses rising, no value 0 (rule R22). -/
abbrev Memory := List Host.Cell

/-- The machine stops. No rule of the spec stops the framer: each reason stands for a state no run reaches
(`State.Inv` of Safety.lean excludes it), so each is safe. -/
inductive Fault where
  /-- Raised by a meaning in a phase its operation has not got (rule R41). Safe. -/
  | phaseNotOfOperation (p : Phase)
  /-- Raised by a micro-step that calls `LinkRead` on an empty queue: stuck
  (93_implementation_defined.md row 22). Safe. -/
  | linkReadEmpty
  deriving DecidableEq, Repr

/-- The model has no meaning for what the engine is asked to do. -/
inductive Refusal where
  /-- Raised by an arm of `exec` whose instruction is not modelled yet. Safe. No arm raises it. -/
  | notModelled (mnemonic : String)
  /-- Raised by the engine's step when CTRL holds an illegal word while BUSY = 1, which issue rules out
  (45_transaction.md rule R230). Safe. -/
  | illegalWord (e : DecodeError)
  deriving DecidableEq, Repr

structure State where
  /-- CTRL, the last accepted operation word (rule R23). -/
  ctrl       : Word
  /-- STATUS.RESULT (rule R25). -/
  result     : OpResult
  /-- STATUS.TRUNC (rule R26). -/
  trunc      : Bool
  /-- STATUS.OVR (rule R27). -/
  ovr        : Bool
  /-- STATUS.ACCERR (rule R28). -/
  accerr     : Bool
  /-- TXLEN (rule R30). -/
  txlen      : Byte
  /-- RXCAP (rule R31). -/
  rxcap      : Byte
  /-- RXLEN (rule R36). -/
  rxlen      : Byte
  /-- CKSUM (rule R33). -/
  cksum      : Byte
  /-- RXCK (rule R34). -/
  rxck       : Byte
  /-- FRAMELEN (rule R35). -/
  framelen   : BitVec 9
  /-- RXCOUNT (rule R37). -/
  rxcount    : BitVec 9
  /-- DRAINCNT (rule R38). -/
  draincnt   : Word
  /-- TXBUF, FRAME and RXBUF (rule R39). -/
  mem        : Memory
  /-- `e.phase` (rule R40). -/
  phase      : Phase
  /-- `e.next` (rule R40). -/
  drainNext  : DrainNext
  /-- `e.rx` (rule R40). -/
  replyDue   : Bool
  /-- `e.k` (rule R40). -/
  txIndex    : Nat
  /-- `e.t0` (rule R40). -/
  t0         : Word
  /-- `e.T` (rule R40). -/
  budget     : BitVec 16
  /-- `rxq`, oldest byte first (rule R43). -/
  rxq        : List Byte
  /-- `txq`, oldest byte first (rule R43). -/
  txq        : List Byte
  /-- `now`, the millisecond counter (rules R8, R44). -/
  now        : Word
  /-- The level of the reset input (rule R280). -/
  rst        : Bool
  /-- The instantiation parameters (rules R6, R7, R9); MARKER reads `params.marker` (rule R32). -/
  params     : Params
  /-- What the latest `MemRead` returned (rule R61). The model's own field. -/
  rdata      : Word
  /-- OVR has been set in this run (60_exceptions.md rule R258). The model's own field. -/
  ovrSeen    : Bool
  /-- ACCERR has been set in this run (rule R258). The model's own field. -/
  accerrSeen : Bool
  /-- The moves to come, first first (rule R5; notes/assumptions/1.md). The model's own field. -/
  agenda     : List Move
  /-- How many free values have been drawn (notes/assumptions/12.md). The model's own field. -/
  draws      : Nat
  deriving DecidableEq, Repr

/-- One step's outcome. -/
abbrev StepOutcome := Host.Outcome State Fault Refusal

/-- The machine right after reset (rules R46, R280): every register, buffer and engine field at its reset value,
`now`, `e.t0` and `rxq` free (notes/assumptions/4.md), nothing scheduled. -/
def State.reset : State where
  ctrl       := 0
  result     := .none
  trunc      := false
  ovr        := false
  accerr     := false
  txlen      := 0
  rxcap      := 0
  rxlen      := 0
  cksum      := 0
  rxck       := 0
  framelen   := 0
  rxcount    := 0
  draincnt   := 0
  mem        := []
  phase      := .idle
  drainNext  := .finish
  replyDue   := false
  txIndex    := 0
  t0         := Config.resetT0
  budget     := 0
  rxq        := Config.resetRxq.take Config.params.rxqDepth
  txq        := []
  now        := Config.resetTime
  rst        := false
  params     := Config.params
  rdata      := 0
  ovrSeen    := false
  accerrSeen := false
  agenda     := []
  draws      := 0

end Sys2Proof.Machine
end

