-- ==== Sys2Proof/Machine/Ops.lean ====
section
/-! DEFINITION. The named operations the operation rules are built from: buffers (10_state.md rule R39), the
checksum accumulator (40_checksum.md), the link and the clock (20_memory.md rule R70, 43_receiver.md rule R180),
acceptance and completion of an operation (45_transaction.md rule R230, 60_exceptions.md rule R250), reset. -/

namespace Sys2Proof.Machine

/-! ## Memory -/

/-- What an unlisted address reads as: every buffer entry resets to 0 (rule R39). -/
def Memory.unlisted : Byte := 0

/-- The byte at an address. -/
def Memory.read : Memory → Nat → Byte
  | [], _ => Memory.unlisted
  | (a, b) :: m, x => if x = a then b else Memory.read m x

/-- Put a cell in front, unless it says what an unlisted address reads as. -/
def Memory.cons (a : Nat) (b : Byte) (m : Memory) : Memory :=
  if b = Memory.unlisted then m else (a, b) :: m

/-- Store a byte at an address, keeping the canonical form. -/
def Memory.write : Memory → Nat → Byte → Memory
  | [], x, v => Memory.cons x v []
  | (a, b) :: m, x, v =>
    if x < a then Memory.cons x v ((a, b) :: m)
    else if x = a then Memory.cons x v m
    else (a, b) :: Memory.write m x v

/-- Return the addresses from `lo` up to but not including `hi` to what they read as at reset. -/
def Memory.clear (m : Memory) (lo hi : Nat) : Memory :=
  m.filter fun c => decide (c.1 < lo) || decide (hi ≤ c.1)

/-- The canonical form: addresses strictly rising, no cell equal to what an unlisted address reads as. -/
def Memory.wf : Memory → Bool
  | [] => true
  | (a, b) :: m => decide (b ≠ Memory.unlisted) && m.all (fun c => decide (a < c.1)) && Memory.wf m

/-! ## Buffers -/

/-- The window address of entry 0 (rule R22). -/
def Buf.base : Buf → Nat
  | .tx    => 0x400
  | .frame => 0x800
  | .rx    => 0x1000

/-- How many entries a buffer has (rule R22). -/
def Buf.size : Buf → Nat
  | .tx    => 255
  | .frame => 259
  | .rx    => 255

/-- The window address of entry `i` (rule R22). -/
def Buf.addr (b : Buf) (i : Nat) : Nat := b.base + 4 * i

/-- Entry `i` of a buffer. -/
def State.readBuf (s : State) (b : Buf) (i : Nat) : Byte :=
  if i < b.size then s.mem.read (b.addr i) else Memory.unlisted

/-- `BUF[i] <- v`. -/
def State.writeBuf (s : State) (b : Buf) (i : Nat) (v : Byte) : State :=
  if i < b.size then { s with mem := s.mem.write (b.addr i) v } else s

/-- `BUF[j] <- 0x00` for every entry from `i` on. -/
def State.clearBuf (s : State) (b : Buf) (i : Nat) : State :=
  { s with mem := s.mem.clear (b.addr i) (b.addr b.size) }

/-! ## Checksum accumulator -/

/-- `CkInit()` (rule R120). -/
def State.ckInit (s : State) : State := { s with cksum := 0 }

/-- `CkAdd(b)`: the sum mod 256, its carry discarded (rules R120, R121). -/
def State.ckAdd (s : State) (b : Byte) : State := { s with cksum := s.cksum + b }

/-! ## Link and clock -/

/-- `LinkRead()`: the head of `rxq`, removed; nothing if the queue is empty (rules R70, R71). -/
def State.linkRead (s : State) : Option (Byte × State) :=
  match s.rxq with
  | [] => none
  | b :: q => some (b, { s with rxq := q })

/-- `LinkWrite(b)`: always completes (rules R70, R162). -/
def State.linkWrite (s : State) (b : Byte) : State := { s with txq := s.txq ++ [b] }

/-- `Now() - e.t0`, mod 2^32 (rule R8). -/
def State.elapsed (s : State) : Word := s.now - s.t0

/-- `EnterWait(T)` (rule R180). -/
def State.enterWait (s : State) (T : BitVec 16) : State := { s with t0 := s.now, budget := T }

/-- What a poll finds (rule R180). -/
inductive PollOutcome where
  | available
  | timeout
  | pending
  deriving DecidableEq, Repr

/-- `Poll()`: a byte wins, and the budget is strict (rules R180, R181). -/
def State.poll (s : State) : PollOutcome :=
  if 0 < s.rxq.length then .available
  else if s.budget.toNat < s.elapsed.toNat then .timeout
  else .pending

/-! ## Beginning and end of an operation -/

/-- STATUS.BUSY (rules R24, R41). -/
def State.busy (s : State) : Bool := decide (s.phase ≠ .idle)

/-- A legal word is accepted: rule R230's second branch. -/
def State.accept (s : State) (w : Word) : State :=
  { s with
    ctrl := w, result := .none, trunc := false
    replyDue := false, drainNext := .finish, txIndex := 0, phase := .start }

/-- `raise Result(code)`: the one way an accepted operation ends (rule R250). -/
def State.raiseResult (s : State) (code : OpResult) : State :=
  { s with result := code, phase := .idle, replyDue := false, drainNext := .finish }

/-! ## Reset -/

/-- Every register, buffer and engine field takes its reset value (rules R46, R280). The link's queues, the clock
and the model's record of faults stay as they are (rules R281, R258); `e.t0` is drawn (notes/assumptions/5.md). -/
def State.framerReset (s : State) : State :=
  { s with
    ctrl := 0, result := .none, trunc := false, ovr := false, accerr := false
    txlen := 0, rxcap := 0, rxlen := 0, cksum := 0, rxck := 0
    framelen := 0, rxcount := 0, draincnt := 0, mem := []
    phase := .idle, drainNext := .finish, replyDue := false, txIndex := 0
    t0 := Config.freeTime s.draws, budget := 0, draws := s.draws + 1 }

end Sys2Proof.Machine
end

