-- ==== Sys2Proof/Machine/Operands.lean ====
section
/-! DEFINITION. Operand forms: the payload each SHAPE builds (30_encoding.md rule R94), and what an address of the
register window names (10_state.md rule R22, 20_memory.md rules R61 to R64). -/

namespace Sys2Proof.Machine

/-! ## Payloads -/

/-- BUF: `TXBUF[0 .. TXLEN-1]` (rules R94, R141). -/
def State.payloadBuf (s : State) : List Byte := (List.range s.txlen.toNat).map (s.readBuf .tx)

/-- Z: no byte (rule R94). -/
def payloadZ : List Byte := []

/-- B: `ARG[7:0]` (rule R94). -/
def payloadB (arg : Byte) : List Byte := [arg]

/-- H: `ARG[15:8], ARG[7:0]`, the high byte first (rules R68, R94). -/
def payloadH (arg : BitVec 16) : List Byte := [arg.extractLsb' 8 8, arg.extractLsb' 0 8]

/-! ## Window addresses -/

/-- What a window address names (rule R22). -/
inductive Target where
  | misaligned
  | reserved
  | ctrl
  | status
  | txlen
  | rxcap
  | rxlen
  | cksum
  | rxck
  | framelen
  | rxcount
  | draincnt
  | marker
  | entry (b : Buf) (i : Nat)
  deriving DecidableEq, Repr

/-- The register at a word index below 0x100 (rule R22: the eleven registers at 0x000 to 0x028). -/
def registerAt : Nat → Target
  | 0  => .ctrl
  | 1  => .status
  | 2  => .txlen
  | 3  => .rxcap
  | 4  => .rxlen
  | 5  => .cksum
  | 6  => .rxck
  | 7  => .framelen
  | 8  => .rxcount
  | 9  => .draincnt
  | 10 => .marker
  | _  => .reserved

/-- The entry of a buffer at a word-aligned address, if it has that entry. -/
def entryAt (b : Buf) (n : Nat) : Target :=
  if (n - b.base) / 4 < b.size then .entry b ((n - b.base) / 4) else .reserved

/-- What a byte address of the window names (rules R22, R63, R64). -/
def targetOf (a : BusAddr) : Target :=
  let n := a.toNat
  if n % 4 ≠ 0 then .misaligned
  else if n < 0x400 then registerAt (n / 4)
  else if n < 0x800 then entryAt .tx n
  else if n < 0x1000 then entryAt .frame n
  else entryAt .rx n

end Sys2Proof.Machine
end

