-- ==== Sys2Proof/Machine/Encoder.lean ====
section
/-! DEFINITION. The frame encoder and the four ENCODE operations (41_encoder.md). -/

namespace Sys2Proof.Machine

/-- `FRAME[j] <- b ; CkAdd(b)`, one line of `EncodeFrame` (rule R140). -/
def State.putFrame (s : State) (j : Nat) (b : Byte) : State := (s.writeBuf .frame j b).ckAdd b

/-- The payload loop of `EncodeFrame`, from frame offset `j` (rule R140). -/
def State.putPayload : List Byte → Nat → State → State
  | [], _, s => s
  | b :: p, j, s => putPayload p (j + 1) (s.putFrame j b)

/-- Marker, command and length (rule R140). -/
def State.putHeader (s : State) (cmd : Byte) (n : Nat) : State :=
  ((s.ckInit.putFrame 0 s.params.marker).putFrame 1 cmd).putFrame 2 (BitVec.ofNat 8 n)

/-- The checksum appender, the clearing of FRAME above the frame, FRAMELEN (rule R140). -/
def State.closeFrame (s : State) (n : Nat) : State :=
  { (s.writeBuf .frame (3 + n) s.cksum).clearBuf .frame (n + 4) with framelen := BitVec.ofNat 9 (n + 4) }

/-- `EncodeFrame(cmd, p)` (rule R140). Every shape gives at most 255 bytes (rule R147). -/
def State.encodeFrame (s : State) (cmd : Byte) (p : List Byte) : State :=
  (State.putPayload p 3 (s.putHeader cmd p.length)).closeFrame p.length

/-- The one micro-step of an ENCODE operation, START (rules R142 to R145). -/
def State.encodeOp (s : State) (cmd : Byte) (p : List Byte) : StepOutcome :=
  match s.phase with
  | .start => .next ((s.encodeFrame cmd p).raiseResult .ok)
  | .idle  => .fault (.phaseNotOfOperation .idle)
  | .drain => .fault (.phaseNotOfOperation .drain)
  | .tx    => .fault (.phaseNotOfOperation .tx)
  | .rx    => .fault (.phaseNotOfOperation .rx)
  | .wb    => .fault (.phaseNotOfOperation .wb)

/-- `encode.buf CMD` (rule R142). -/
def execEncodeBuf (cmd : Byte) (s : State) : StepOutcome := s.encodeOp cmd s.payloadBuf

/-- `encode.z CMD` (rule R143). -/
def execEncodeZ (cmd : Byte) (s : State) : StepOutcome := s.encodeOp cmd payloadZ

/-- `encode.b CMD, ARG8` (rule R144). -/
def execEncodeB (cmd arg : Byte) (s : State) : StepOutcome := s.encodeOp cmd (payloadB arg)

/-- `encode.h CMD, ARG16` (rule R145). -/
def execEncodeH (cmd : Byte) (arg : BitVec 16) (s : State) : StepOutcome := s.encodeOp cmd (payloadH arg)

end Sys2Proof.Machine
end

