-- ==== Sys2Proof/Machine/Flags.lean ====
section
/-! DEFINITION. The STATUS register: its codes, its word, and who sets and clears its bits
(10_state.md rules R24 to R29, R45; 60_exceptions.md rules R254, R255, R258). -/

namespace Sys2Proof.Machine

/-- The code of a result (rule R25). -/
def OpResult.code : OpResult → BitVec 3
  | .none    => 0
  | .ok      => 1
  | .ckfail  => 2
  | .timeout => 3
  | .illegal => 4
  | .noframe => 5

/-- A STATUS word: BUSY bit 0, RESULT bits 3:1, TRUNC bit 4, OVR bit 5, ACCERR bit 6, the rest 0
(rules R24 to R29). -/
def statusWord (busy : Bool) (result : OpResult) (trunc ovr accerr : Bool) : Word :=
  (0 : BitVec 25) ++ BitVec.ofBool accerr ++ BitVec.ofBool ovr ++ BitVec.ofBool trunc
    ++ result.code ++ BitVec.ofBool busy

/-- The STATUS register (rules R24 to R29). -/
def State.status (s : State) : Word := statusWord s.busy s.result s.trunc s.ovr s.accerr

/-- A bad host access: STATUS.ACCERR <- 1, and the model's record (rules R255, R258). -/
def State.accessError (s : State) : State := { s with accerr := true, accerrSeen := true }

/-- A host write to CTRL, TXLEN, RXCAP or TXBUF while BUSY = 1: dropped, STATUS.OVR <- 1, and the model's
record (rules R254, R258). -/
def State.overrun (s : State) : State := { s with ovr := true, ovrSeen := true }

/-- A host write of STATUS: bits 5 and 6 clear OVR and ACCERR where they are 1, nothing else
(rule R29, 20_memory.md rule R62 line 4). -/
def State.clearFaultBits (s : State) (v : Word) : State :=
  { s with ovr := s.ovr && !v.getLsbD 5, accerr := s.accerr && !v.getLsbD 6 }

/-- STATUS.TRUNC <- 1 where the declared length exceeds the capacity (rules R26, R203). -/
def State.noteLength (s : State) (len : Byte) : State :=
  { s with trunc := s.trunc || decide (s.rxcap.toNat < len.toNat) }

end Sys2Proof.Machine
end

