-- ==== Sys2Proof/Machine/FrameDecoder.lean ====
section
/-! DEFINITION. The frame decoder and validator, and RECEIVE (44_decoder.md). -/

namespace Sys2Proof.Machine

/-- `ReceiveEnter()` (rule R200). -/
def State.receiveEnter (s : State) : State :=
  { ((s.clearBuf .rx 0).ckInit).enterWait s.params.tFirst with
    rxlen := 0, rxcount := 0, rxck := 0, phase := .rx }

/-- The frame is not complete: the next byte's wait begins (rule R201). -/
def State.awaitByte (s : State) : State := s.enterWait s.params.tByte

/-- A marker or echo byte, index 0 or 1: summed, compared with nothing, stored nowhere (rule R202). -/
def State.takeHead (s : State) (b : Byte) : State := (s.ckAdd b).awaitByte

/-- The length byte, index 2 (rule R203). -/
def State.takeLength (s : State) (b : Byte) : State :=
  (({ s with rxlen := b }.ckAdd b).noteLength b).awaitByte

/-- Payload byte `j`: summed, and kept where the destination has room (rule R204). -/
def State.takePayload (s : State) (j : Nat) (b : Byte) : State :=
  (if j < s.rxcap.toNat then (s.ckAdd b).writeBuf .rx j b else s.ckAdd b).awaitByte

/-- Reception fails: RXBUF is zero-filled (rules R206, R208). -/
def State.failReceive (s : State) (code : OpResult) : State := (s.clearBuf .rx 0).raiseResult code

/-- The checksum byte, index `3 + L`: compared, not summed, and reception ends (rules R205 to R207, R209). -/
def State.takeChecksum (s : State) (b : Byte) : State :=
  if b = s.cksum then { s with rxck := b }.raiseResult .ok
  else { s with rxck := b }.failReceive .ckfail

/-- The byte at index RXCOUNT, RXCOUNT counted up (rule R210). -/
def State.takeByte (s : State) (b : Byte) : State :=
  let i := s.rxcount.toNat
  let s := { s with rxcount := s.rxcount + 1 }
  if i ≤ 1 then s.takeHead b
  else if i = 2 then s.takeLength b
  else if i < 3 + s.rxlen.toNat then s.takePayload (i - 3) b
  else s.takeChecksum b

/-- `RxPoll()` (rule R210). -/
def State.rxPoll (s : State) : StepOutcome :=
  match s.poll with
  | .pending   => .next s
  | .timeout   => .next (s.failReceive .timeout)
  | .available =>
    match s.linkRead with
    | none => .fault .linkReadEmpty
    | some (b, s) => .next (s.takeByte b)

/-- `receive` (rule R210). -/
def execReceive (s : State) : StepOutcome :=
  match s.phase with
  | .start => .next s.receiveEnter
  | .rx    => s.rxPoll
  | .idle  => .fault (.phaseNotOfOperation .idle)
  | .drain => .fault (.phaseNotOfOperation .drain)
  | .tx    => .fault (.phaseNotOfOperation .tx)
  | .wb    => .fault (.phaseNotOfOperation .wb)

end Sys2Proof.Machine
end

