-- ==== Sys2Proof/Machine/Receiver.lean ====
section
/-! DEFINITION. The timeout-bounded receiver's own operation, WAITBYTE (43_receiver.md). -/

namespace Sys2Proof.Machine

/-- START of WAITBYTE (rule R182). -/
def State.waitEnter (s : State) (ms : BitVec 16) : State := { s.enterWait ms with phase := .wb }

/-- A WB poll: the byte found stays in `rxq` (rule R182). -/
def State.waitPoll (s : State) : StepOutcome :=
  match s.poll with
  | .available => .next (s.raiseResult .ok)
  | .timeout   => .next (s.raiseResult .timeout)
  | .pending   => .next s

/-- `waitbyte MS` (rule R182). -/
def execWaitbyte (ms : BitVec 16) (s : State) : StepOutcome :=
  match s.phase with
  | .start => .next (s.waitEnter ms)
  | .wb    => s.waitPoll
  | .idle  => .fault (.phaseNotOfOperation .idle)
  | .drain => .fault (.phaseNotOfOperation .drain)
  | .tx    => .fault (.phaseNotOfOperation .tx)
  | .rx    => .fault (.phaseNotOfOperation .rx)

end Sys2Proof.Machine
end

