-- ==== Sys2Proof/Machine/Transmitter.lean ====
section
/-! DEFINITION. The link transmitter: the drain, the transmit, DRAIN and SEND (42_transmitter.md). -/

namespace Sys2Proof.Machine

/-- `DrainEnter(next)` (rule R160). -/
def State.drainEnter (s : State) (next : DrainNext) : State :=
  { s.enterWait s.params.tDrain with draincnt := 0, drainNext := next, phase := .drain }

/-- A stray byte was removed: counted mod 2^32, and a fresh probe begins (rule R160). -/
def State.drainCount (s : State) : State :=
  { s.enterWait s.params.tDrain with draincnt := s.draincnt + 1 }

/-- A probe timed out: the drain ends (rule R160). -/
def State.drainDone (s : State) : State :=
  match s.drainNext with
  | .finish   => s.raiseResult .ok
  | .transmit => { s with txIndex := 0, phase := .tx }

/-- `DrainPoll()` (rule R160). -/
def State.drainPoll (s : State) : StepOutcome :=
  match s.poll with
  | .pending   => .next s
  | .timeout   => .next s.drainDone
  | .available =>
    match s.linkRead with
    | none => .fault .linkReadEmpty
    | some (_, s) => .next s.drainCount

/-- FRAME[e.k] goes out and `e.k` counts up (rule R162). -/
def State.txByte (s : State) : State :=
  { s.linkWrite (s.readBuf .frame s.txIndex) with txIndex := s.txIndex + 1 }

/-- The last byte was written (rule R162). -/
def State.txDone (s : State) : State := if s.replyDue then s.receiveEnter else s.raiseResult .ok

/-- `TxStep()` (rule R162). -/
def State.txStep (s : State) : StepOutcome :=
  if s.txIndex + 1 = s.framelen.toNat then .next s.txByte.txDone else .next s.txByte

/-- `drain` (rule R161). -/
def execDrain (s : State) : StepOutcome :=
  match s.phase with
  | .start => .next (s.drainEnter .finish)
  | .drain => s.drainPoll
  | .idle  => .fault (.phaseNotOfOperation .idle)
  | .tx    => .fault (.phaseNotOfOperation .tx)
  | .rx    => .fault (.phaseNotOfOperation .rx)
  | .wb    => .fault (.phaseNotOfOperation .wb)

/-- START of SEND (rule R163): NOFRAME where nothing has been encoded since reset (rule R253). -/
def State.sendStart (s : State) : State :=
  if s.framelen = 0 then s.raiseResult .noframe
  else { s with replyDue := false }.drainEnter .transmit

/-- `send` (rule R163). -/
def execSend (s : State) : StepOutcome :=
  match s.phase with
  | .start => .next s.sendStart
  | .drain => s.drainPoll
  | .tx    => s.txStep
  | .idle  => .fault (.phaseNotOfOperation .idle)
  | .rx    => .fault (.phaseNotOfOperation .rx)
  | .wb    => .fault (.phaseNotOfOperation .wb)

end Sys2Proof.Machine
end

