-- ==== Sys2Proof/Machine/Transaction.lean ====
section
/-! DEFINITION. The transaction procedure and the four TRANSACT operations (45_transaction.md). -/

namespace Sys2Proof.Machine

/-- START of `Transact(cmd, p, rply)` (rule R235): encode, then drain. -/
def State.transactStart (s : State) (rply : Bool) (cmd : Byte) (p : List Byte) : State :=
  { s.encodeFrame cmd p with replyDue := rply }.drainEnter .transmit

/-- `Transact(cmd, p, rply)`, micro-step by micro-step (rule R235). The RX phase belongs to it only where a
reply is expected. -/
def State.transactOp (s : State) (rply : Bool) (cmd : Byte) (p : List Byte) : StepOutcome :=
  match s.phase with
  | .start => .next (s.transactStart rply cmd p)
  | .drain => s.drainPoll
  | .tx    => s.txStep
  | .rx    => if rply then s.rxPoll else .fault (.phaseNotOfOperation .rx)
  | .idle  => .fault (.phaseNotOfOperation .idle)
  | .wb    => .fault (.phaseNotOfOperation .wb)

/-- `transact.buf[.r] CMD` (rule R231). -/
def execTransactBuf (rply : Bool) (cmd : Byte) (s : State) : StepOutcome :=
  s.transactOp rply cmd s.payloadBuf

/-- `transact.z[.r] CMD` (rule R232). -/
def execTransactZ (rply : Bool) (cmd : Byte) (s : State) : StepOutcome :=
  s.transactOp rply cmd payloadZ

/-- `transact.b[.r] CMD, ARG8` (rule R233). -/
def execTransactB (rply : Bool) (cmd arg : Byte) (s : State) : StepOutcome :=
  s.transactOp rply cmd (payloadB arg)

/-- `transact.h[.r] CMD, ARG16` (rule R234). -/
def execTransactH (rply : Bool) (cmd : Byte) (arg : BitVec 16) (s : State) : StepOutcome :=
  s.transactOp rply cmd (payloadH arg)

end Sys2Proof.Machine
end

