-- ==== Sys2Proof/Machine/Dispatch.lean ====
section
/-! DEFINITION. `exec i s`: the engine micro-step of operation `i` that the phase of `s` calls for
(00_scope.md rule R12, 45_transaction.md rule R230). -/

namespace Sys2Proof.Machine

def exec (i : Instr) (s : State) : Host.Outcome State Fault Refusal :=
  match i with
  | .encodeBuf cmd => Sys2Proof.Machine.execEncodeBuf cmd s
  | .encodeZ cmd => Sys2Proof.Machine.execEncodeZ cmd s
  | .encodeB cmd arg => Sys2Proof.Machine.execEncodeB cmd arg s
  | .encodeH cmd arg => Sys2Proof.Machine.execEncodeH cmd arg s
  | .transactBuf rply cmd => Sys2Proof.Machine.execTransactBuf rply cmd s
  | .transactZ rply cmd => Sys2Proof.Machine.execTransactZ rply cmd s
  | .transactB rply cmd arg => Sys2Proof.Machine.execTransactB rply cmd arg s
  | .transactH rply cmd arg => Sys2Proof.Machine.execTransactH rply cmd arg s
  | .drain => Sys2Proof.Machine.execDrain s
  | .send => Sys2Proof.Machine.execSend s
  | .receive => Sys2Proof.Machine.execReceive s
  | .waitbyte ms => Sys2Proof.Machine.execWaitbyte ms s

end Sys2Proof.Machine
end

