-- ==== Sys2Proof/Machine/HostPort.lean ====
section
/-! DEFINITION. The host's accesses to the register window (20_memory.md rules R60 to R66), command issue
(45_transaction.md rule R230), and the assembler's pseudo-instructions as host accesses (30_encoding.md
rule R104). -/

namespace Sys2Proof.Machine

/-! ## Reads -/

/-- What a read of an engine-written register gives: its value, or, while BUSY = 1, a free value of its width
(rules R21, R61; 70_reset_and_hazards.md rule R292; notes/assumptions/11.md). -/
def State.engineWritten {w : Nat} (s : State) (v : BitVec w) : Word :=
  if s.busy then ((Config.freeRead s.draws).setWidth w).setWidth 32 else v.setWidth 32

/-- What a read of STATUS gives: all exact but TRUNC, which is a free value while BUSY = 1 (rule R292). -/
def State.statusRead (s : State) : Word :=
  statusWord s.busy s.result (if s.busy then (Config.freeRead s.draws).getLsbD 0 else s.trunc) s.ovr s.accerr

/-- What a read of a target returns (rules R21, R61, R292). -/
def State.valueAt (s : State) : Target → Word
  | .misaligned     => 0
  | .reserved       => 0
  | .ctrl           => s.ctrl
  | .status         => s.statusRead
  | .txlen          => s.txlen.setWidth 32
  | .rxcap          => s.rxcap.setWidth 32
  | .rxlen          => s.engineWritten s.rxlen
  | .cksum          => s.engineWritten s.cksum
  | .rxck           => s.engineWritten s.rxck
  | .framelen       => s.engineWritten s.framelen
  | .rxcount        => s.engineWritten s.rxcount
  | .draincnt       => s.engineWritten s.draincnt
  | .marker         => s.params.marker.setWidth 32
  | .entry .tx i    => (s.readBuf .tx i).setWidth 32
  | .entry .frame i => s.engineWritten (s.readBuf .frame i)
  | .entry .rx i    => s.engineWritten (s.readBuf .rx i)

/-- The answer reaches the host; a draw made while BUSY = 1 is used up. -/
def State.answer (s : State) (v : Word) : State :=
  { s with rdata := v, draws := if s.busy then s.draws + 1 else s.draws }

/-- `MemRead(addr, 4)` (rule R61). While `rst` is asserted no error is recorded (notes/assumptions/6.md). -/
def hostRead (a : BusAddr) (s : State) : State :=
  let t := targetOf a
  let r := s.answer (s.valueAt t)
  if (t = .misaligned ∨ t = .reserved) ∧ s.rst = false then r.accessError else r

/-! ## Writes -/

/-- Command issue while BUSY = 0 (rules R100, R230). -/
def State.issue (s : State) (w : Word) : State :=
  match decode w with
  | .ok _ => s.accept w
  | .error _ => { s with trunc := false, result := .illegal }

/-- A write to a register or entry that BUSY = 1 protects (rule R62 line 5, rule R254). -/
def State.unlessBusy (s t : State) : State := if s.busy then s.overrun else t

/-- TXLEN stores the low byte of the written word (rules R21, R30). -/
def State.setTxlen (s : State) (v : Word) : State := { s with txlen := v.setWidth 8 }

/-- RXCAP stores the low byte of the written word (rules R21, R31). -/
def State.setRxcap (s : State) (v : Word) : State := { s with rxcap := v.setWidth 8 }

/-- TXBUF[i] stores the low byte of the written word (rules R21, R39). -/
def State.setTxbuf (s : State) (i : Nat) (v : Word) : State := s.writeBuf .tx i (v.setWidth 8)

/-- What a write of `v` to a target does (rule R62). -/
def State.writeAt (s : State) (v : Word) : Target → State
  | .misaligned     => s.accessError
  | .reserved       => s.accessError
  | .rxlen          => s.accessError
  | .cksum          => s.accessError
  | .rxck           => s.accessError
  | .framelen       => s.accessError
  | .rxcount        => s.accessError
  | .draincnt       => s.accessError
  | .marker         => s.accessError
  | .entry .frame _ => s.accessError
  | .entry .rx _    => s.accessError
  | .status         => s.clearFaultBits v
  | .ctrl           => s.unlessBusy (s.issue v)
  | .txlen          => s.unlessBusy (s.setTxlen v)
  | .rxcap          => s.unlessBusy (s.setRxcap v)
  | .entry .tx i    => s.unlessBusy (s.setTxbuf i v)

/-- `MemWrite(addr, 4, v)` (rule R62). While `rst` is asserted nothing is written (rule R259 item 1;
notes/assumptions/6.md). -/
def hostWrite (a : BusAddr) (v : Word) (s : State) : State :=
  if s.rst then s else s.writeAt v (targetOf a)

/-! ## Pseudo-instructions (rule R104)

`poll`, and the polling half of `run` and `query`, loop on what a read returns: they are the host's program. -/

/-- `issue OPW`. -/
def hostIssue (i : Instr) : List Move := [.hostWrite 0x000 (encode i)]

/-- The `write TXBUF[k], bk` of `load_payload`, from entry `k`. -/
def hostLoadBytes : List Byte → Nat → List Move
  | [], _ => []
  | b :: p, k => .hostWrite (BitVec.ofNat 13 (Buf.addr .tx k)) (b.setWidth 32) :: hostLoadBytes p (k + 1)

/-- `load_payload b0, ..., b(n-1)`. -/
def hostLoadPayload (p : List Byte) : List Move :=
  .hostWrite 0x008 (BitVec.ofNat 32 p.length) :: hostLoadBytes p 0

/-- One read of `poll`'s loop: `read STATUS`. -/
def hostPollOnce : List Move := [.hostRead 0x004]

/-- `query CMD, C` up to its poll. -/
def hostQuery (cmd c : Byte) : List Move :=
  .hostWrite 0x00C (c.setWidth 32) :: hostIssue (.transactZ true cmd)

/-- `clear_faults`. -/
def hostClearFaults : List Move := [.hostWrite 0x004 0x60]

end Sys2Proof.Machine
end

