-- ==== Sys2Proof/Machine/Engine.lean ====
section
/-! DEFINITION. What each agent's move does (00_scope.md rule R5). -/

namespace Sys2Proof.Machine

/-- The engine has a step: an operation is in progress and `rst` is released (10_state.md rule R41,
70_reset_and_hazards.md rule R280). -/
def State.engineEnabled (s : State) : Bool := s.busy && !s.rst

/-- The engine's micro-step: the operation in CTRL, in the phase it is in (45_transaction.md rule R230). An engine
with no step leaves the state as it is (notes/assumptions/1.md). -/
def engineStep (s : State) : StepOutcome :=
  if s.engineEnabled then
    match decode s.ctrl with
    | .ok i => exec i s
    | .error e => .refused (.illegalWord e)
  else .next s

/-- A byte arrives: at the tail, or, if `rxq` is full, one byte is lost (10_state.md rule R43;
notes/assumptions/8.md). -/
def State.linkArrive (s : State) (b : Byte) (lost : Nat) : State :=
  if s.rxq.length < s.params.rxqDepth then { s with rxq := s.rxq ++ [b] }
  else { s with rxq := (s.rxq ++ [b]).eraseIdx (min lost s.rxq.length) }

/-- The link takes bytes from the front of `txq` (rule R5; notes/assumptions/9.md). -/
def State.linkTake (s : State) (n : Nat) : State := { s with txq := s.txq.drop n }

/-- One millisecond passes (rules R5, R8). -/
def State.tick (s : State) : State := { s with now := s.now + 1 }

/-- `rst` takes a level; while it is asserted every framer register holds its reset value (rule R280). -/
def State.setRst (s : State) (level : Bool) : State :=
  { (if level then s.framerReset else s) with rst := level }

/-- One move of one agent (rule R5). -/
def takeMove (m : Move) (s : State) : StepOutcome :=
  match m with
  | .engine => engineStep s
  | .hostRead a => .next (hostRead a s)
  | .hostWrite a v => .next (hostWrite a v s)
  | .linkRx b lost => .next (s.linkArrive b lost)
  | .linkTx n => .next (s.linkTake n)
  | .clock => .next s.tick
  | .rst level => .next (s.setRst level)

end Sys2Proof.Machine
end

