-- ==== Sys2Proof/Machine/Step.lean ====
section
/-! DEFINITION. One step of the machine: the next move of the schedule, and where nothing is scheduled a free one
(00_scope.md rule R5, 20_memory.md rule R74, 93_implementation_defined.md row 9). -/

namespace Sys2Proof.Machine

def step (s : State) : Host.Outcome State Fault Refusal :=
  match s.agenda with
  | m :: rest => takeMove m { s with agenda := rest }
  | [] => takeMove (Config.freeMove s.draws) { s with draws := s.draws + 1 }

/-- The state in which the very next step is the first micro-step of the operation word `w`: `w` has been accepted
(45_transaction.md rule R230) and the engine moves next (notes/assumptions/17.md). -/
def State.withFetchWord (s : State) (nbits w : Nat) : State :=
  { s.accept (BitVec.ofNat 32 (w % 2 ^ nbits)) with rst := false, agenda := .engine :: s.agenda }

end Sys2Proof.Machine
end

