-- ==== Sys2Proof/Safety.lean ====
section
/-! DEFINITION. The terms claims are stated in: the checksum and the wire frame as functions of their bytes
(40_checksum.md rule R122, 30_encoding.md rule R92), the phases of each operation (10_state.md rule R41), the
invariant of the machine, and what a run that ended well is (00_scope.md rule R13, 60_exceptions.md rule R258). -/

namespace Sys2Proof.Machine

/-! ## Bytes on the wire -/

/-- `ck(s)`: the sum of the bytes mod 256 (rule R122). -/
def ck (s : List Byte) : Byte := BitVec.ofNat 8 (s.map BitVec.toNat).sum

/-- The bytes a frame's checksum covers: marker, command, length, payload (rules R92, R123). -/
def frameBody (marker cmd : Byte) (p : List Byte) : List Byte :=
  marker :: cmd :: BitVec.ofNat 8 p.length :: p

/-- The wire frame with a command and a payload (rules R92, R123). -/
def frameOf (marker cmd : Byte) (p : List Byte) : List Byte :=
  frameBody marker cmd p ++ [ck (frameBody marker cmd p)]

/-! ## Phases -/

/-- The phases an operation goes through (rules R41, R235). -/
def phasesOf : Instr → List Phase
  | .encodeBuf _           => [.start]
  | .encodeZ _             => [.start]
  | .encodeB _ _           => [.start]
  | .encodeH _ _           => [.start]
  | .transactBuf rply _    => if rply then [.start, .drain, .tx, .rx] else [.start, .drain, .tx]
  | .transactZ rply _      => if rply then [.start, .drain, .tx, .rx] else [.start, .drain, .tx]
  | .transactB rply _ _    => if rply then [.start, .drain, .tx, .rx] else [.start, .drain, .tx]
  | .transactH rply _ _    => if rply then [.start, .drain, .tx, .rx] else [.start, .drain, .tx]
  | .drain                 => [.start, .drain]
  | .send                  => [.start, .drain, .tx]
  | .receive               => [.start, .rx]
  | .waitbyte _            => [.start, .wb]

/-- What follows an operation's drain (rule R40). -/
def drainNextOf (i : Instr) : DrainNext := if i = .drain then .finish else .transmit

/-- The phase transitions of rule R41, and staying in a phase. -/
def phaseMayGo : Phase → Phase → Bool
  | .idle,  q => q == .idle || q == .start
  | .start, q => q == .start || q == .idle || q == .drain || q == .rx || q == .wb
  | .drain, q => q == .drain || q == .idle || q == .tx
  | .tx,    q => q == .tx || q == .rx || q == .idle
  | .rx,    q => q == .rx || q == .idle
  | .wb,    q => q == .wb || q == .idle

/-! ## The invariant -/

/-- A window address that is a buffer entry (rule R22). -/
def isEntryAddr (a : Nat) : Bool :=
  a % 4 == 0 && (decide (0x400 ≤ a ∧ a < 0x7FC) || decide (0x800 ≤ a ∧ a < 0xC0C)
    || decide (0x1000 ≤ a ∧ a < 0x13FC))

/-- Buffer memory is canonical and lists buffer entries alone (rules R22, R39). -/
def State.MemOk (s : State) : Prop :=
  s.mem.wf = true ∧ ∀ c ∈ s.mem, isEntryAddr c.1 = true

/-- The receive queue fits its depth, which is at least 1 (rules R9, R43). -/
def State.QueueOk (s : State) : Prop :=
  1 ≤ s.params.rxqDepth ∧ s.rxq.length ≤ s.params.rxqDepth

/-- FRAME is empty with FRAMELEN = 0, or FRAMELEN bytes that are a well-formed request frame with zeros above
(rules R35, R39, R123, R140). -/
def State.FrameOk (s : State) : Prop :=
  (s.framelen = 0 ∧ ∀ j, s.readBuf .frame j = 0) ∨
  ∃ cmd p, p.length ≤ 255 ∧ s.framelen.toNat = p.length + 4 ∧
    ∀ j, s.readBuf .frame j = (frameOf s.params.marker cmd p).getD j 0

/-- The engine is where its operation can be (rules R40, R41, R230, R235): while busy, RESULT = NONE and CTRL
holds a legal word, one of whose phases the engine is in; the fields of rule R40 fit it. -/
structure State.EngineOk (s : State) : Prop where
  idle_next  : s.phase = .idle → s.drainNext = .finish
  idle_reply : s.phase = .idle → s.replyDue = false
  busy_none  : s.phase ≠ .idle → s.result = .none
  busy_op    : s.phase ≠ .idle → ∃ i, decode s.ctrl = .ok i ∧ s.phase ∈ phasesOf i
  start_next : s.phase = .start → s.drainNext = .finish ∧ s.replyDue = false ∧ s.txIndex = 0
  drain_next : ∀ i, decode s.ctrl = .ok i → s.phase = .drain ∨ s.phase = .tx →
    s.drainNext = drainNextOf i ∧ s.replyDue = i.expectsReply
  send_frame : s.phase = .drain ∧ s.drainNext = .transmit ∨ s.phase = .tx → s.framelen ≠ 0
  tx_index   : s.phase = .tx → s.txIndex < s.framelen.toNat
  index_max  : s.txIndex ≤ 259
  rx_count   : s.phase = .rx → s.rxcount.toNat ≤ 3 + s.rxlen.toNat
  count_max  : s.rxcount.toNat ≤ 4 + s.rxlen.toNat
  len_late   : s.rxcount.toNat ≤ 2 → s.rxlen = 0

/-- Every framer register, buffer and engine field but `e.t0` holds its reset value (rules R46, R280). -/
structure State.IsReset (s : State) : Prop where
  ctrl      : s.ctrl = 0
  result    : s.result = .none
  trunc     : s.trunc = false
  ovr       : s.ovr = false
  accerr    : s.accerr = false
  txlen     : s.txlen = 0
  rxcap     : s.rxcap = 0
  rxlen     : s.rxlen = 0
  cksum     : s.cksum = 0
  rxck      : s.rxck = 0
  framelen  : s.framelen = 0
  rxcount   : s.rxcount = 0
  draincnt  : s.draincnt = 0
  mem       : s.mem = []
  phase     : s.phase = .idle
  drainNext : s.drainNext = .finish
  replyDue  : s.replyDue = false
  txIndex   : s.txIndex = 0
  budget    : s.budget = 0

/-- A fault bit that is set has been recorded (rule R258). -/
def State.RecordOk (s : State) : Prop :=
  (s.ovr = true → s.ovrSeen = true) ∧ (s.accerr = true → s.accerrSeen = true)

/-- The invariant of the machine: it holds at reset, and every step keeps it. -/
structure State.Inv (s : State) : Prop where
  mem    : s.MemOk
  queue  : s.QueueOk
  frame  : s.FrameOk
  engine : s.EngineOk
  record : s.RecordOk
  rst    : s.rst = true → s.IsReset

/-! ## What a step or a micro-step did -/

/-- The move the next step takes (rule R5): the scheduled one, or a free one. -/
def State.nextMove (s : State) : Move :=
  match s.agenda with
  | m :: _ => m
  | [] => Config.freeMove s.draws

/-- Every byte of buffer memory whose address is not one of `b`'s entries reads as before. -/
def SameOutside (b : Buf) (s t : State) : Prop :=
  ∀ a, a < b.base ∨ b.addr b.size ≤ a → t.mem.read a = s.mem.read a

/-- `t` holds the frame of `cmd` and `p` as `s` would encode it (rule R140): FRAME its bytes and zeros above, CKSUM
its checksum, FRAMELEN its length, every other byte of memory as in `s`. -/
def EncodedAs (s t : State) (cmd : Byte) (p : List Byte) : Prop :=
  (∀ j, t.readBuf .frame j = (frameOf s.params.marker cmd p).getD j 0) ∧
  SameOutside .frame s t ∧
  t.cksum = ck (frameBody s.params.marker cmd p) ∧
  t.framelen.toNat = p.length + 4

/-- RXBUF reads 0 everywhere in `t`, every other byte of memory as in `s` (rules R200, R206, R208). -/
def RxbufZeroed (s t : State) : Prop :=
  (∀ j, t.readBuf .rx j = 0) ∧ SameOutside .rx s t

/-- A host write that BUSY = 1 makes an overrun: CTRL, TXLEN, RXCAP or a TXBUF entry (rules R27, R254). -/
def isProtectedAddr (a : BusAddr) : Bool :=
  a.toNat % 4 == 0 &&
    (a == 0x000 || a == 0x008 || a == 0x00C || decide (0x400 ≤ a.toNat ∧ a.toNat < 0x7FC))

/-- A reserved address of the window (rule R64), aligned. -/
def isReservedAddr (a : BusAddr) : Bool :=
  a.toNat % 4 == 0 &&
    (decide (0x02C ≤ a.toNat ∧ a.toNat ≤ 0x3FC) || a == 0x7FC
      || decide (0xC0C ≤ a.toNat ∧ a.toNat ≤ 0xFFC) || decide (0x13FC ≤ a.toNat))

/-- A read-only register or buffer entry of the window (rules R22, R62 line 3). -/
def isReadOnlyAddr (a : BusAddr) : Bool :=
  a.toNat % 4 == 0 &&
    (decide (0x010 ≤ a.toNat ∧ a.toNat ≤ 0x028) || decide (0x800 ≤ a.toNat ∧ a.toNat < 0xC0C)
      || decide (0x1000 ≤ a.toNat ∧ a.toNat < 0x13FC))

/-! ## Schedules -/

/-- A byte that arrives `w.1` ms after the wait for it began, and the engine poll that finds it; where `polled`, the
engine polls at each ms before it too (rule R181). -/
def arrival (polled : Bool) (w : Nat × Byte) : List Move :=
  (List.replicate w.1 (if polled then [.clock, .engine] else [.clock])).flatten ++ [.linkRx w.2 0, .engine]

/-- Arrivals one after the other. -/
def arrivals (polled : Bool) (ws : List (Nat × Byte)) : List Move := ws.flatMap (arrival polled)

/-- START, a drain of a silent link, and `n` transmit micro-steps (rules R160, R162, R235). -/
def sendMoves (p : Params) (n : Nat) : List Move :=
  .engine :: (List.replicate (p.tDrain.toNat + 1) .clock ++ .engine :: List.replicate n .engine)

/-- The bytes of a reply arrive within the budgets: the first within T_FIRST, each later one within T_BYTE
(rule R201). -/
def InTime (p : Params) : List (Nat × Byte) → Prop
  | [] => True
  | w :: ws => w.1 ≤ p.tFirst.toNat ∧ ∀ v ∈ ws, v.1 ≤ p.tByte.toNat

/-- `s` ran to `t`, idle, having sent the frame of `cmd` and `p` on a silent link, every byte of the link's receive
side consumed (rules R140, R162, R235): FRAME keeps it, and the registers and buffers no rule lets a transaction write
are as before. -/
structure RequestSent (s t : State) (cmd : Byte) (p : List Byte) : Prop where
  sent     : t.txq = s.txq ++ frameOf s.params.marker cmd p
  frame    : ∀ j, t.readBuf .frame j = (frameOf s.params.marker cmd p).getD j 0
  framelen : t.framelen.toNat = p.length + 4
  draincnt : t.draincnt = 0
  phase    : t.phase = .idle
  rxq      : t.rxq = []
  ctrl     : t.ctrl = s.ctrl
  txlen    : t.txlen = s.txlen
  rxcap    : t.rxcap = s.rxcap
  ovr      : t.ovr = s.ovr
  accerr   : t.accerr = s.accerr
  txbuf    : ∀ j, t.readBuf .tx j = s.readBuf .tx j

/-! ## How a run ended -/

/-- A fault was recorded in the run (rule R258). -/
def State.faultRecorded (s : State) : Bool := s.ovrSeen || s.accerrSeen

/-- Where a host program's run ends: BUSY = 0 and no fault bit set (rule R13). -/
def State.runEnded (s : State) : Bool := !s.busy && !s.ovr && !s.accerr

end Sys2Proof.Machine
end

