-- ==== Sys2Proof/Certificates/Slice0/Obligations.lean ====
section
/-! DEFINITION. The statements for the provers. Each docstring names the rules of spec/ it formalises. -/

open Sys2Proof Sys2Proof.Machine

/-! ## Operation words -/

/-- Decoding an assembled word gives the operation back, whatever its operands (rules R90, R91, R97, R103). -/
def Obligations.DecodeEncodeRoundTrip : Prop :=
  ∀ i : Instr, decode (encode i) = .ok i

/-- The assembled word is its fields shifted into place, it matches its own row of the opcode map, and every bit the
row's pattern ignores is 0 (rules R102, R103). -/
def Obligations.AssembledWordLayout : Prop :=
  ∀ i : Instr,
    encode i =
      (i.fields.arg.setWidth 32 <<< 16) ||| (i.fields.cmd.setWidth 32 <<< 8) |||
      (i.fields.rply.setWidth 32 <<< 6) ||| (i.fields.shape.setWidth 32 <<< 4) |||
      i.fields.op.setWidth 32 ∧
    i.fields.rply = BitVec.ofBool i.expectsReply ∧
    ∃ r ∈ opcodeTable, r.mnemonic = i.mnemonic ∧ r.covers (encode i) = true ∧ encode i &&& ~~~r.care = 0

/-- Rule R97, its four items on the word itself. -/
def Obligations.DecodeAcceptsExactlyLegalWords : Prop :=
  ∀ w : Word,
    (∃ i, decode w = .ok i) ↔
      (1 ≤ (w.extractLsb' 0 4).toNat ∧ (w.extractLsb' 0 4).toNat ≤ 6) ∧
      w.getLsbD 7 = false ∧
      ((w.extractLsb' 0 4).toNat ≠ 2 → w.getLsbD 6 = false) ∧
      (3 ≤ (w.extractLsb' 0 4).toNat → (w.extractLsb' 0 4).toNat ≤ 6 → w.extractLsb' 4 2 = 0)

/-- Rule R102: a legal word matches exactly one row, the row of its operation; a word that matches none is
illegal. -/
def Obligations.LegalWordMatchesOneRow : Prop :=
  ∀ w : Word,
    (∀ i, decode w = .ok i →
      ∃ r ∈ opcodeTable, r.covers w = true ∧ r.mnemonic = i.mnemonic ∧
        ∀ q ∈ opcodeTable, q.covers w = true → q = r) ∧
    ((∀ r ∈ opcodeTable, r.covers w = false) → ∃ e, decode w = .error e)

/-- Rule R98: words that agree on the bits a row does not ignore are the same operation, and the accepted word is
stored in CTRL whole. -/
def Obligations.IgnoredBitsHaveNoEffect : Prop :=
  ∀ (w v : Word) (i : Instr) (r : OpcodeRow),
    decode w = .ok i → r ∈ opcodeTable → r.covers w = true → v &&& r.care = w &&& r.care →
      decode v = .ok i ∧
      ∀ s : State, s.rst = false → s.phase = .idle → (hostWrite 0x000 v s).ctrl = v

/-- Words the spec writes out decode to the operations it names (95_test_vectors.md E, T, W, R, X and I vectors). -/
def Obligations.SpecWordsDecode : Prop :=
  decode 0x00002001 = .ok (.encodeBuf 0x20) ∧
  decode 0x00000111 = .ok (.encodeZ 0x01) ∧
  decode 0xAB125521 = .ok (.encodeB 0x55 0x12) ∧
  decode 0x12340731 = .ok (.encodeH 0x07 0x1234) ∧
  decode 0x00002042 = .ok (.transactBuf true 0x20) ∧
  decode 0x00000152 = .ok (.transactZ true 0x01) ∧
  decode 0x001E0622 = .ok (.transactB false 0x06 0x1E) ∧
  decode 0x00050C72 = .ok (.transactH true 0x0C 0x0005) ∧
  decode 0xFFFFFF03 = .ok .drain ∧
  decode 0x00000004 = .ok .send ∧
  decode 0x00000005 = .ok .receive ∧
  decode 0x00960006 = .ok (.waitbyte 150) ∧
  decode 0x00000041 = .error .rplyNotAllowed ∧
  decode 0x00000013 = .error .shapeNotAllowed ∧
  decode 0x00000081 = .error .rsvSet ∧
  decode 0x00000007 = .error .reservedOp

/-! ## Steps -/

/-- A scheduled engine move runs the operation CTRL holds: the step is `exec` on the state with that move taken off
the schedule, and nothing else around it (rules R41, R230; the schedule is notes/assumptions/1.md). -/
def Obligations.StepRunsDecodedInstruction : Prop :=
  ∀ (s : State) (rest : List Move) (i : Instr),
    s.agenda = .engine :: rest → s.rst = false → s.phase ≠ .idle → decode s.ctrl = .ok i →
      step s = exec i { s with agenda := rest }

/-- `withFetchWord` places a legal word as its acceptance by the host leaves it (rule R230), and the very next step
is its first micro-step. -/
def Obligations.FetchWordRunsNext : Prop :=
  ∀ (s : State) (w : Nat) (i : Instr),
    decodeTableWord 32 w = some i →
      step (s.withFetchWord 32 w) = exec i { s.accept (BitVec.ofNat 32 w) with rst := false }

/-- What each scheduled move other than the engine's and `rst`'s does (rules R5, R8, R43; `ResetInputActs` is about
`rst`; the schedule, the byte a full queue loses and what the link takes are the model's, notes/assumptions/1.md, 8.md,
9.md): a host access takes effect as `hostRead` or `hostWrite`; time counts up by one mod 2^32; an arriving byte joins
the tail of a queue with room, and at a full queue one byte is lost; bytes leave the front of `txq`; a machine with
nothing scheduled makes a free move. -/
def Obligations.EnvironmentMoves : Prop :=
  ∀ (s : State) (rest : List Move),
    (∀ a, s.agenda = .hostRead a :: rest → step s = .next (hostRead a { s with agenda := rest })) ∧
    (∀ a v, s.agenda = .hostWrite a v :: rest → step s = .next (hostWrite a v { s with agenda := rest })) ∧
    (s.agenda = .clock :: rest → step s = .next { s with agenda := rest, now := s.now + 1 }) ∧
    (∀ b lost, s.agenda = .linkRx b lost :: rest → s.rxq.length < s.params.rxqDepth →
      step s = .next { s with agenda := rest, rxq := s.rxq ++ [b] }) ∧
    (∀ b lost, s.agenda = .linkRx b lost :: rest → s.params.rxqDepth ≤ s.rxq.length →
      step s = .next { s with agenda := rest, rxq := (s.rxq ++ [b]).eraseIdx (min lost s.rxq.length) }) ∧
    (∀ n, s.agenda = .linkTx n :: rest → step s = .next { s with agenda := rest, txq := s.txq.drop n }) ∧
    (s.agenda = [] →
      step s = takeMove (Config.freeMove s.draws) { s with draws := s.draws + 1 })

/-! ## Issue -/

/-- Rule R230, its second branch: a legal word written to CTRL while BUSY = 0 is accepted. -/
def Obligations.LegalWordIsAccepted : Prop :=
  ∀ (s : State) (w : Word) (i : Instr), s.rst = false → s.phase = .idle → decode w = .ok i →
    hostWrite 0x000 w s =
      { s with
        ctrl := w, result := .none, trunc := false
        replyDue := false, drainNext := .finish, txIndex := 0, phase := .start }

/-- Rule R100: an illegal word written to CTRL while BUSY = 0 sets RESULT = ILLEGAL, clears TRUNC, changes nothing
else. -/
def Obligations.IllegalWordIsRejected : Prop :=
  ∀ (s : State) (w : Word), s.rst = false → s.phase = .idle → (∀ i, decode w ≠ .ok i) →
    hostWrite 0x000 w s = { s with trunc := false, result := .illegal }

/-- Rule R254: a write to CTRL, TXLEN, RXCAP or any TXBUF entry while BUSY = 1 is dropped and sets OVR. Nothing is said
of the model's record of the fault, which `FaultRecordIsKept` is about. -/
def Obligations.BusyWriteIsOverrun : Prop :=
  ∀ (s : State) (a : BusAddr) (v : Word), s.rst = false → s.phase ≠ .idle →
    a = 0x000 ∨ a = 0x008 ∨ a = 0x00C ∨ (∃ k, k < 255 ∧ a.toNat = 0x400 + 4 * k) →
      hostWrite a v s = { s with ovr := true, ovrSeen := (hostWrite a v s).ovrSeen }

/-! ## The host window -/

/-- Rule R62, line by line, while `rst` is released. Nothing is said of the model's record of a fault, which
`FaultRecordIsKept` is about. -/
def Obligations.HostWriteEffects : Prop :=
  ∀ (s : State) (a : BusAddr) (v : Word), s.rst = false →
    (a.toNat % 4 ≠ 0 ∨ isReservedAddr a = true ∨ isReadOnlyAddr a = true →
      hostWrite a v s = { s with accerr := true, accerrSeen := (hostWrite a v s).accerrSeen }) ∧
    (a = 0x004 → hostWrite a v s =
      { s with
        ovr := if v.getLsbD 5 then false else s.ovr
        accerr := if v.getLsbD 6 then false else s.accerr }) ∧
    (isProtectedAddr a = true → s.phase ≠ .idle →
      hostWrite a v s = { s with ovr := true, ovrSeen := (hostWrite a v s).ovrSeen }) ∧
    (s.phase = .idle →
      (a = 0x000 → hostWrite a v s = s.issue v) ∧
      (a = 0x008 → hostWrite a v s = { s with txlen := v.extractLsb' 0 8 }) ∧
      (a = 0x00C → hostWrite a v s = { s with rxcap := v.extractLsb' 0 8 }) ∧
      (∀ k, k < 255 → a.toNat = 0x400 + 4 * k →
        hostWrite a v s = { s with mem := s.mem.write (0x400 + 4 * k) (v.extractLsb' 0 8) }))

/-- What a stored TXBUF entry reads as, and that no other byte of memory changes (rules R21, R39, R62 line 7). -/
def Obligations.TxbufWriteReadsBack : Prop :=
  ∀ (s : State) (a : BusAddr) (v : Word) (k : Nat),
    s.rst = false → s.phase = .idle → s.mem.wf = true → k < 255 → a.toNat = 0x400 + 4 * k →
      (hostWrite a v s).mem.read (0x400 + 4 * k) = v.extractLsb' 0 8 ∧
      (hostWrite a v s).readBuf .tx k = v.extractLsb' 0 8 ∧
      ∀ x, x ≠ 0x400 + 4 * k → (hostWrite a v s).mem.read x = s.mem.read x

/-- Rule R61 while BUSY = 0 and `rst` is released: a bad address reads 0 and sets ACCERR; every register and buffer
entry reads its value, zero-extended; a read changes nothing else (`rdata` is where the model puts the answer,
notes/assumptions/10.md). -/
def Obligations.IdleReadsAreExact : Prop :=
  ∀ (s : State) (a : BusAddr), s.rst = false → s.phase = .idle →
    (a.toNat % 4 ≠ 0 ∨ isReservedAddr a = true →
      hostRead a s = { s with rdata := 0, accerr := true, accerrSeen := true }) ∧
    (a = 0x000 → hostRead a s = { s with rdata := s.ctrl }) ∧
    (a = 0x004 → hostRead a s = { s with rdata := s.status }) ∧
    (a = 0x008 → hostRead a s = { s with rdata := s.txlen.setWidth 32 }) ∧
    (a = 0x00C → hostRead a s = { s with rdata := s.rxcap.setWidth 32 }) ∧
    (a = 0x010 → hostRead a s = { s with rdata := s.rxlen.setWidth 32 }) ∧
    (a = 0x014 → hostRead a s = { s with rdata := s.cksum.setWidth 32 }) ∧
    (a = 0x018 → hostRead a s = { s with rdata := s.rxck.setWidth 32 }) ∧
    (a = 0x01C → hostRead a s = { s with rdata := s.framelen.setWidth 32 }) ∧
    (a = 0x020 → hostRead a s = { s with rdata := s.rxcount.setWidth 32 }) ∧
    (a = 0x024 → hostRead a s = { s with rdata := s.draincnt }) ∧
    (a = 0x028 → hostRead a s = { s with rdata := s.params.marker.setWidth 32 }) ∧
    (∀ k, k < 255 → a.toNat = 0x400 + 4 * k →
      hostRead a s = { s with rdata := (s.mem.read (0x400 + 4 * k)).setWidth 32 }) ∧
    (∀ k, k < 259 → a.toNat = 0x800 + 4 * k →
      hostRead a s = { s with rdata := (s.mem.read (0x800 + 4 * k)).setWidth 32 }) ∧
    (∀ k, k < 255 → a.toNat = 0x1000 + 4 * k →
      hostRead a s = { s with rdata := (s.mem.read (0x1000 + 4 * k)).setWidth 32 })

/-- Rule R292: what stays exact in a read made while BUSY = 1. The other registers give a free value of their width
(notes/assumptions/11.md), so nothing is said of it but that the unimplemented bits are 0 (rule R21), the model's
reading of the two rules together. -/
def Obligations.BusyReads : Prop :=
  ∀ (s : State) (a : BusAddr), s.rst = false → s.phase ≠ .idle →
    (∃ v, hostRead a s = { s with rdata := v, draws := s.draws + 1 } ∨
      hostRead a s = { s with rdata := v, draws := s.draws + 1, accerr := true, accerrSeen := true }) ∧
    (a.toNat % 4 ≠ 0 ∨ isReservedAddr a = true →
      (hostRead a s).rdata = 0 ∧ (hostRead a s).accerr = true) ∧
    (a.toNat % 4 = 0 → isReservedAddr a = false → (hostRead a s).accerr = s.accerr) ∧
    (a = 0x000 → (hostRead a s).rdata = s.ctrl) ∧
    (a = 0x004 →
      (hostRead a s).rdata.getLsbD 0 = true ∧
      (hostRead a s).rdata.extractLsb' 1 3 = s.result.code ∧
      (hostRead a s).rdata.getLsbD 5 = s.ovr ∧
      (hostRead a s).rdata.getLsbD 6 = s.accerr ∧
      (hostRead a s).rdata.extractLsb' 7 25 = 0) ∧
    (a = 0x008 → (hostRead a s).rdata = s.txlen.setWidth 32) ∧
    (a = 0x00C → (hostRead a s).rdata = s.rxcap.setWidth 32) ∧
    (a = 0x028 → (hostRead a s).rdata = s.params.marker.setWidth 32) ∧
    (∀ k, k < 255 → a.toNat = 0x400 + 4 * k →
      (hostRead a s).rdata = (s.mem.read (0x400 + 4 * k)).setWidth 32) ∧
    (a = 0x010 ∨ a = 0x014 ∨ a = 0x018 ∨ 0x800 ≤ a.toNat → (hostRead a s).rdata.toNat < 256) ∧
    (a = 0x01C ∨ a = 0x020 → (hostRead a s).rdata.toNat < 512)

/-- Rules R24 to R29: where each bit of STATUS stands. -/
def Obligations.StatusWordLayout : Prop :=
  ∀ s : State,
    s.status.getLsbD 0 = decide (s.phase ≠ .idle) ∧
    s.status.extractLsb' 1 3 =
      (match s.result with
        | .none => 0 | .ok => 1 | .ckfail => 2 | .timeout => 3 | .illegal => 4 | .noframe => 5) ∧
    s.status.getLsbD 4 = s.trunc ∧
    s.status.getLsbD 5 = s.ovr ∧
    s.status.getLsbD 6 = s.accerr ∧
    s.status.extractLsb' 7 25 = 0

/-! ## Checksum -/

/-- Rule R120: the accumulator's two micro-operations, and that they change nothing else. -/
def Obligations.ChecksumMicroOps : Prop :=
  ∀ (s : State) (b : Byte),
    s.ckInit = { s with cksum := 0x00 } ∧
    s.ckAdd b = { s with cksum := BitVec.ofNat 8 ((s.cksum.toNat + b.toNat) % 256) }

/-- Rule R122: from `CkInit()`, adding bytes one by one leaves CKSUM = `ck` of the sequence. -/
def Obligations.ChecksumAccumulates : Prop :=
  ∀ (s : State) (l : List Byte),
    l.foldl (fun u b => u.ckAdd b) s.ckInit =
      { s with cksum := BitVec.ofNat 8 ((l.map BitVec.toNat).sum % 256) }

/-- Rule R125, items 1 and 2: changing one summed byte changes the sum; reordering the summed bytes does not. -/
def Obligations.ChecksumDetection : Prop :=
  (∀ (l r : List Byte) (a b : Byte), a ≠ b → ck (l ++ a :: r) ≠ ck (l ++ b :: r)) ∧
  (∀ l r : List Byte, l.Perm r → ck l = ck r)

/-! ## ENCODE -/

/-- `encode.buf` (rules R140 to R142): in START it completes with the frame of CMD and TXBUF[0 .. TXLEN-1], RESULT =
OK, the engine idle, and nothing else changed. -/
def Obligations.EncodeBufBuildsFrame : Prop :=
  ∀ (s : State) (cmd : Byte), s.phase = .start → s.mem.wf = true →
    ∃ t, exec (.encodeBuf cmd) s = .next t ∧
      EncodedAs s t cmd ((List.range s.txlen.toNat).map fun k => s.mem.read (0x400 + 4 * k)) ∧
      t = { s with
        mem := t.mem, cksum := t.cksum, framelen := t.framelen
        result := .ok, phase := .idle, replyDue := false, drainNext := .finish }

/-- `encode.z`, `encode.b`, `encode.h` (rules R140, R143 to R145): the same with no byte, with ARG8, and with ARG16
high byte first. -/
def Obligations.EncodeShapesBuildFrame : Prop :=
  ∀ (s : State) (cmd : Byte) (i : Instr) (p : List Byte), s.phase = .start → s.mem.wf = true →
    (i = .encodeZ cmd ∧ p = []) ∨
    (∃ arg, i = .encodeB cmd arg ∧ p = [arg]) ∨
    (∃ arg : BitVec 16, i = .encodeH cmd arg ∧
      p = [BitVec.ofNat 8 (arg.toNat / 256), BitVec.ofNat 8 (arg.toNat % 256)]) →
    ∃ t, exec i s = .next t ∧ EncodedAs s t cmd p ∧
      t = { s with
        mem := t.mem, cksum := t.cksum, framelen := t.framelen
        result := .ok, phase := .idle, replyDue := false, drainNext := .finish }

/-- Rule R146: a convenience shape writes the same FRAME, FRAMELEN and CKSUM as `encode.buf` does with its bytes in
TXBUF, and leaves TXLEN and TXBUF unchanged. -/
def Obligations.ConvenienceShapesAgreeWithBuf : Prop :=
  ∀ (s u : State) (cmd : Byte) (i : Instr), s.phase = .start → u.phase = .start →
    s.mem.wf = true → u.mem.wf = true → s.params.marker = u.params.marker →
    (i = .encodeZ cmd ∧ u.txlen = 0) ∨
    (∃ arg, i = .encodeB cmd arg ∧ u.txlen = 1 ∧ u.readBuf .tx 0 = arg) ∨
    (∃ arg : BitVec 16, i = .encodeH cmd arg ∧ u.txlen = 2 ∧
      u.readBuf .tx 0 = arg.extractLsb' 8 8 ∧ u.readBuf .tx 1 = arg.extractLsb' 0 8) →
    ∃ t v, exec i s = .next t ∧ exec (.encodeBuf cmd) u = .next v ∧
      (∀ j, t.readBuf .frame j = v.readBuf .frame j) ∧ t.framelen = v.framelen ∧ t.cksum = v.cksum ∧
      t.txlen = s.txlen ∧ ∀ j, t.readBuf .tx j = s.readBuf .tx j

/-! ## START of the waiting operations -/

/-- START of the four TRANSACT operations (rules R231 to R235, R160): the request is encoded, then the drain
begins; nothing else changes. -/
def Obligations.TransactStartEncodesAndDrains : Prop :=
  ∀ (s : State) (rply : Bool) (cmd : Byte) (i : Instr) (p : List Byte), s.phase = .start → s.mem.wf = true →
    (i = .transactBuf rply cmd ∧
      p = (List.range s.txlen.toNat).map fun k => s.mem.read (0x400 + 4 * k)) ∨
    (i = .transactZ rply cmd ∧ p = []) ∨
    (∃ arg, i = .transactB rply cmd arg ∧ p = [arg]) ∨
    (∃ arg : BitVec 16, i = .transactH rply cmd arg ∧
      p = [BitVec.ofNat 8 (arg.toNat / 256), BitVec.ofNat 8 (arg.toNat % 256)]) →
    ∃ t, exec i s = .next t ∧ EncodedAs s t cmd p ∧
      t = { s with
        mem := t.mem, cksum := t.cksum, framelen := t.framelen
        replyDue := rply, draincnt := 0, drainNext := .transmit
        t0 := s.now, budget := s.params.tDrain, phase := .drain }

/-- START of DRAIN (rules R160, R161). -/
def Obligations.DrainStart : Prop :=
  ∀ s : State, s.phase = .start →
    exec .drain s = .next
      { s with
        draincnt := 0, drainNext := .finish, t0 := s.now, budget := s.params.tDrain, phase := .drain }

/-- START of SEND (rules R163, R253): NOFRAME with nothing else done where FRAMELEN = 0, otherwise the drain
begins. -/
def Obligations.SendStart : Prop :=
  ∀ s : State, s.phase = .start →
    (s.framelen = 0 →
      exec .send s = .next
        { s with result := .noframe, phase := .idle, replyDue := false, drainNext := .finish }) ∧
    (s.framelen ≠ 0 →
      exec .send s = .next
        { s with
          replyDue := false, draincnt := 0, drainNext := .transmit
          t0 := s.now, budget := s.params.tDrain, phase := .drain })

/-- START of RECEIVE, `ReceiveEnter()` (rule R200). -/
def Obligations.ReceiveStart : Prop :=
  ∀ s : State, s.phase = .start →
    ∃ t, exec .receive s = .next t ∧ RxbufZeroed s t ∧
      t = { s with
        mem := t.mem, cksum := 0, rxlen := 0, rxcount := 0, rxck := 0
        t0 := s.now, budget := s.params.tFirst, phase := .rx }

/-- START of WAITBYTE (rule R182). -/
def Obligations.WaitbyteStart : Prop :=
  ∀ (s : State) (ms : BitVec 16), s.phase = .start →
    exec (.waitbyte ms) s = .next { s with t0 := s.now, budget := ms, phase := .wb }

/-! ## Polls -/

/-- Rules R180 and R181: a byte wins; the budget is strict; elapsed time is counted mod 2^32 (rule R8). -/
def Obligations.PollOutcomes : Prop :=
  ∀ s : State,
    (s.rxq ≠ [] → s.poll = .available) ∧
    (s.rxq = [] → s.budget.toNat < (s.now - s.t0).toNat → s.poll = .timeout) ∧
    (s.rxq = [] → (s.now - s.t0).toNat ≤ s.budget.toNat → s.poll = .pending) ∧
    ∀ T : BitVec 16, s.enterWait T = { s with t0 := s.now, budget := T }

/-- `DrainPoll()` in every operation that drains (rule R160): a byte found is discarded and counted and a fresh probe
begins; a probe that timed out ends the drain; a pending poll changes nothing. -/
def Obligations.DrainPollStep : Prop :=
  ∀ (i : Instr) (s : State), s.phase = .drain → .drain ∈ phasesOf i →
    (∀ b q, s.rxq = b :: q →
      exec i s = .next
        { s with rxq := q, draincnt := s.draincnt + 1, t0 := s.now, budget := s.params.tDrain }) ∧
    (s.rxq = [] → s.budget.toNat < (s.now - s.t0).toNat →
      (s.drainNext = .finish →
        exec i s = .next { s with result := .ok, phase := .idle, replyDue := false, drainNext := .finish }) ∧
      (s.drainNext = .transmit → exec i s = .next { s with txIndex := 0, phase := .tx })) ∧
    (s.rxq = [] → (s.now - s.t0).toNat ≤ s.budget.toNat → exec i s = .next s)

/-- `TxStep()` in every operation that transmits (rule R162): one FRAME byte goes out; after the last one the
operation ends OK, or reception begins where a reply is due. -/
def Obligations.TxByteStep : Prop :=
  ∀ (i : Instr) (s : State), s.phase = .tx → .tx ∈ phasesOf i →
    (s.txIndex + 1 ≠ s.framelen.toNat →
      exec i s = .next
        { s with txq := s.txq ++ [s.readBuf .frame s.txIndex], txIndex := s.txIndex + 1 }) ∧
    (s.txIndex + 1 = s.framelen.toNat → s.replyDue = false →
      exec i s = .next
        { s with
          txq := s.txq ++ [s.readBuf .frame s.txIndex], txIndex := s.txIndex + 1
          result := .ok, phase := .idle, drainNext := .finish }) ∧
    (s.txIndex + 1 = s.framelen.toNat → s.replyDue = true →
      ∃ t, exec i s = .next t ∧ RxbufZeroed s t ∧
        t = { s with
          txq := s.txq ++ [s.readBuf .frame s.txIndex], txIndex := s.txIndex + 1
          mem := t.mem, cksum := 0, rxlen := 0, rxcount := 0, rxck := 0
          t0 := s.now, budget := s.params.tFirst, phase := .rx })

/-- A WB poll (rule R182): the byte found stays in `rxq`. -/
def Obligations.WaitbytePollStep : Prop :=
  ∀ (s : State) (ms : BitVec 16), s.phase = .wb →
    (s.rxq ≠ [] →
      exec (.waitbyte ms) s = .next
        { s with result := .ok, phase := .idle, replyDue := false, drainNext := .finish }) ∧
    (s.rxq = [] → s.budget.toNat < (s.now - s.t0).toNat →
      exec (.waitbyte ms) s = .next
        { s with result := .timeout, phase := .idle, replyDue := false, drainNext := .finish }) ∧
    (s.rxq = [] → (s.now - s.t0).toNat ≤ s.budget.toNat → exec (.waitbyte ms) s = .next s)

/-! ## Reception -/

/-- An RX poll with no byte (rules R208, R210): past the budget RXBUF is zero-filled and the operation ends TIMEOUT,
nothing rolled back; within it nothing changes. -/
def Obligations.ReceivePollWithoutByte : Prop :=
  ∀ (i : Instr) (s : State), s.phase = .rx → .rx ∈ phasesOf i → s.rxq = [] →
    (s.budget.toNat < (s.now - s.t0).toNat →
      ∃ t, exec i s = .next t ∧ RxbufZeroed s t ∧
        t = { s with
          mem := t.mem, result := .timeout, phase := .idle, replyDue := false, drainNext := .finish }) ∧
    ((s.now - s.t0).toNat ≤ s.budget.toNat → exec i s = .next s)

/-- Bytes at index 0 and 1 (rules R201, R202): summed, compared with nothing, stored nowhere; the next wait begins
with T_BYTE. -/
def Obligations.ReceiveMarkerAndEcho : Prop :=
  ∀ (i : Instr) (s : State) (b : Byte) (q : List Byte),
    s.phase = .rx → .rx ∈ phasesOf i → s.rxq = b :: q → s.rxcount.toNat ≤ 1 →
      exec i s = .next
        { s with
          rxq := q, rxcount := s.rxcount + 1, cksum := s.cksum + b, t0 := s.now, budget := s.params.tByte }

/-- The byte at index 2 (rules R201, R203): latched in RXLEN and summed; TRUNC is set where it exceeds RXCAP. -/
def Obligations.ReceiveLength : Prop :=
  ∀ (i : Instr) (s : State) (b : Byte) (q : List Byte),
    s.phase = .rx → .rx ∈ phasesOf i → s.rxq = b :: q → s.rxcount = 2 →
      exec i s = .next
        { s with
          rxq := q, rxcount := 3, rxlen := b, cksum := s.cksum + b
          trunc := if s.rxcap.toNat < b.toNat then true else s.trunc
          t0 := s.now, budget := s.params.tByte }

/-- A payload byte, index `3 + j` with `j < L` (rules R201, R204): summed, and stored in RXBUF[j] where `j < C`,
dropped otherwise; no other byte of memory changes. -/
def Obligations.ReceivePayloadByte : Prop :=
  ∀ (i : Instr) (s : State) (b : Byte) (q : List Byte) (j : Nat), s.mem.wf = true →
    s.phase = .rx → .rx ∈ phasesOf i → s.rxq = b :: q → s.rxcount.toNat = 3 + j → j < s.rxlen.toNat →
      ∃ t, exec i s = .next t ∧
        (j < s.rxcap.toNat → t.mem.read (Buf.addr .rx j) = b) ∧
        (∀ a, a ≠ Buf.addr .rx j ∨ s.rxcap.toNat ≤ j → t.mem.read a = s.mem.read a) ∧
        t = { s with
          rxq := q, rxcount := s.rxcount + 1, mem := t.mem, cksum := s.cksum + b
          t0 := s.now, budget := s.params.tByte }

/-- The checksum byte, index `3 + L` (rules R205 to R207, R209): RXCK takes it; where it equals CKSUM the operation
ends OK with RXBUF as it is; otherwise RXBUF is zero-filled and the operation ends CKFAIL. -/
def Obligations.ReceiveChecksumByte : Prop :=
  ∀ (i : Instr) (s : State) (b : Byte) (q : List Byte),
    s.phase = .rx → .rx ∈ phasesOf i → s.rxq = b :: q → s.rxcount.toNat = 3 + s.rxlen.toNat →
      (b = s.cksum →
        exec i s = .next
          { s with
            rxq := q, rxcount := s.rxcount + 1, rxck := b
            result := .ok, phase := .idle, replyDue := false, drainNext := .finish }) ∧
      (b ≠ s.cksum →
        ∃ t, exec i s = .next t ∧ RxbufZeroed s t ∧
          t = { s with
            rxq := q, rxcount := s.rxcount + 1, rxck := b, mem := t.mem
            result := .ckfail, phase := .idle, replyDue := false, drainNext := .finish })

/-! ## Whole operations -/

/-- A RECEIVE whose frame lies in `rxq` (rules R202, R207, R211, R212): after START and one micro-step per byte it
ends OK with the first `min L C` payload bytes in RXBUF and zeros beyond, TRUNC = 1 exactly where `L > C`, all of
the frame consumed and nothing after it, whatever the marker and the echo are. -/
def Obligations.ReceiveDecodesWellFormedFrame : Prop :=
  ∀ (s : State) (m e : Byte) (p q : List Byte) (rest : List Move),
    s.phase = .start → decode s.ctrl = .ok .receive → s.rst = false → s.trunc = false → s.mem.wf = true →
    p.length ≤ 255 → s.rxq = frameOf m e p ++ q →
    s.agenda = List.replicate (p.length + 5) .engine ++ rest →
      ∃ t, Host.Core.run core (p.length + 5) s = .next t ∧
        t.result = .ok ∧ t.phase = .idle ∧ t.rxq = q ∧ t.agenda = rest ∧
        (∀ j, t.readBuf .rx j = if j < min p.length s.rxcap.toNat then p.getD j 0 else 0) ∧
        SameOutside .rx s t ∧
        t.trunc = decide (s.rxcap.toNat < p.length) ∧
        t.rxlen.toNat = p.length ∧ t.rxcount.toNat = p.length + 4 ∧
        t.cksum = ck (frameBody m e p) ∧ t.rxck = ck (frameBody m e p)

/-- A RECEIVE whose frame lies in `rxq` with a wrong checksum byte (rules R125 item 1, R206, R251): it ends CKFAIL
with RXBUF all zero, RXCK the byte received and CKSUM the sum computed. -/
def Obligations.ReceiveRejectsWrongChecksum : Prop :=
  ∀ (s : State) (m e c : Byte) (p q : List Byte) (rest : List Move),
    s.phase = .start → decode s.ctrl = .ok .receive → s.rst = false → s.mem.wf = true →
    p.length ≤ 255 → c ≠ ck (frameBody m e p) → s.rxq = frameBody m e p ++ c :: q →
    s.agenda = List.replicate (p.length + 5) .engine ++ rest →
      ∃ t, Host.Core.run core (p.length + 5) s = .next t ∧
        t.result = .ckfail ∧ t.phase = .idle ∧ t.rxq = q ∧ t.agenda = rest ∧
        RxbufZeroed s t ∧
        t.rxlen.toNat = p.length ∧ t.rxcount.toNat = p.length + 4 ∧
        t.cksum = ck (frameBody m e p) ∧ t.rxck = c

/-- The TX phase of SEND and of TRANSACT without a reply, run through (rules R75, R162, R164): FRAME[0 ..
FRAMELEN-1] is appended to `txq` in offset order, once; `rxq` is not touched; the operation ends OK. -/
def Obligations.TransmitWritesWholeFrame : Prop :=
  ∀ (s : State) (i : Instr) (rest : List Move),
    s.phase = .tx → decode s.ctrl = .ok i → .tx ∈ phasesOf i → s.rst = false → s.replyDue = false →
    s.txIndex = 0 → s.framelen ≠ 0 → s.agenda = List.replicate s.framelen.toNat .engine ++ rest →
      Host.Core.run core s.framelen.toNat s = .next
        { s with
          txq := s.txq ++ (List.range s.framelen.toNat).map (s.readBuf .frame)
          txIndex := s.framelen.toNat, agenda := rest
          result := .ok, phase := .idle, drainNext := .finish }

/-- DRAIN on a silent link (rules R160, R161, R181): START, T_DRAIN + 1 ms with no byte, one poll, and it ends OK with
DRAINCNT = 0. -/
def Obligations.DrainCompletesOnSilence : Prop :=
  ∀ (s : State) (rest : List Move),
    s.phase = .start → decode s.ctrl = .ok .drain → s.rst = false → s.rxq = [] →
    s.agenda = .engine :: (List.replicate (s.params.tDrain.toNat + 1) .clock ++ .engine :: rest) →
      Host.Core.run core (s.params.tDrain.toNat + 3) s = .next
        { s with
          agenda := rest, now := s.now + BitVec.ofNat 32 (s.params.tDrain.toNat + 1)
          draincnt := 0, t0 := s.now, budget := s.params.tDrain
          result := .ok, phase := .idle, replyDue := false, drainNext := .finish }

/-- SEND on a silent link (rules R160, R162, R163): after the drain the FRAMELEN bytes of FRAME go out in offset order
and it ends OK; FRAME, FRAMELEN and CKSUM stay as they are. -/
def Obligations.SendSendsTheEncodedFrame : Prop :=
  ∀ (s : State) (rest : List Move),
    s.phase = .start → decode s.ctrl = .ok .send → s.rst = false → s.rxq = [] → s.framelen ≠ 0 →
    s.agenda = .engine :: (List.replicate (s.params.tDrain.toNat + 1) .clock ++
      .engine :: (List.replicate s.framelen.toNat .engine ++ rest)) →
      Host.Core.run core (s.params.tDrain.toNat + 3 + s.framelen.toNat) s = .next
        { s with
          agenda := rest, now := s.now + BitVec.ofNat 32 (s.params.tDrain.toNat + 1)
          draincnt := 0, t0 := s.now, budget := s.params.tDrain
          txq := s.txq ++ (List.range s.framelen.toNat).map (s.readBuf .frame)
          txIndex := s.framelen.toNat
          result := .ok, phase := .idle, replyDue := false, drainNext := .finish }

/-- A whole TRANSACT on a link that is silent until the request is out (rules R92, R140, R160, R162, R231 to R235):
the wire frame of its command and payload is what it added to `txq`, and FRAME and FRAMELEN hold it. With RPLY = 0 it
ends OK there, CKSUM the request's checksum. With RPLY = 1 it goes on into reception (rules R200 to R210): a reply of
any length, marker and echo whose bytes arrive within the budgets, whether or not the engine polls before each, ends
it OK or CKFAIL by its checksum byte, RXBUF as RECEIVE leaves it; no reply for T_FIRST + 1 ms ends it TIMEOUT. -/
def Obligations.TransactSendsItsFrame : Prop :=
  ∀ (s : State) (rply : Bool) (cmd : Byte) (i : Instr) (p : List Byte) (rest : List Move),
    s.phase = .start → decode s.ctrl = .ok i → s.rst = false → s.rxq = [] → s.mem.wf = true →
    (i = .transactBuf rply cmd ∧
      p = (List.range s.txlen.toNat).map fun k => s.mem.read (0x400 + 4 * k)) ∨
    (i = .transactZ rply cmd ∧ p = []) ∨
    (∃ arg, i = .transactB rply cmd arg ∧ p = [arg]) ∨
    (∃ arg : BitVec 16, i = .transactH rply cmd arg ∧
      p = [BitVec.ofNat 8 (arg.toNat / 256), BitVec.ofNat 8 (arg.toNat % 256)]) →
    (rply = false → s.agenda = sendMoves s.params (p.length + 4) ++ rest →
      ∃ t, Host.Core.run core (sendMoves s.params (p.length + 4)).length s = .next t ∧
        RequestSent s t cmd p ∧ EncodedAs s t cmd p ∧ t.result = .ok ∧ t.agenda = rest ∧
        t.rxlen = s.rxlen ∧ t.rxcount = s.rxcount ∧ t.rxck = s.rxck ∧ t.trunc = s.trunc) ∧
    (∀ (polled : Bool) (ws : List (Nat × Byte)) (m e c : Byte) (r : List Byte),
      rply = true → s.trunc = false → 1 ≤ s.params.rxqDepth → r.length ≤ 255 →
      ws.map Prod.snd = frameBody m e r ++ [c] → InTime s.params ws →
      s.agenda = sendMoves s.params (p.length + 4) ++ (arrivals polled ws ++ rest) →
      ∃ t, Host.Core.run core (sendMoves s.params (p.length + 4) ++ arrivals polled ws).length s = .next t ∧
        RequestSent s t cmd p ∧ t.agenda = rest ∧
        t.rxlen.toNat = r.length ∧ t.rxcount.toNat = r.length + 4 ∧
        t.cksum = ck (frameBody m e r) ∧ t.rxck = c ∧ t.trunc = decide (s.rxcap.toNat < r.length) ∧
        (c = ck (frameBody m e r) → t.result = .ok ∧
          ∀ j, t.readBuf .rx j = if j < min r.length s.rxcap.toNat then r.getD j 0 else 0) ∧
        (c ≠ ck (frameBody m e r) → t.result = .ckfail ∧ ∀ j, t.readBuf .rx j = 0)) ∧
    (rply = true →
      s.agenda = sendMoves s.params (p.length + 4) ++
        (List.replicate (s.params.tFirst.toNat + 1) .clock ++ .engine :: rest) →
      ∃ t, Host.Core.run core ((sendMoves s.params (p.length + 4)).length + (s.params.tFirst.toNat + 2)) s = .next t ∧
        RequestSent s t cmd p ∧ t.result = .timeout ∧ t.agenda = rest ∧
        t.rxlen = 0 ∧ t.rxcount = 0 ∧ t.rxck = 0 ∧ t.cksum = 0 ∧ t.trunc = s.trunc ∧
        ∀ j, t.readBuf .rx j = 0)

/-- Rule R290: the model admits a drain that never ends. However many bytes the link delivers, each with up to T_DRAIN
ms before it, the drain is still running after the last and DRAINCNT has counted each: from any state of the drain
where the engine polls only as bytes come, and from the beginning of a probe where it polls at each ms too. -/
def Obligations.DrainNeedNotEnd : Prop :=
  ∀ (s : State) (i : Instr) (polled : Bool) (ws : List (Nat × Byte)) (rest : List Move),
    s.phase = .drain → decode s.ctrl = .ok i → .drain ∈ phasesOf i → s.rst = false → s.rxq = [] →
    1 ≤ s.params.rxqDepth → (∀ w ∈ ws, w.1 ≤ s.params.tDrain.toNat) →
    (polled = true → s.t0 = s.now ∧ s.budget = s.params.tDrain) →
      ∃ t, Host.Core.run core (arrivals polled ws).length { s with agenda := arrivals polled ws ++ rest } = .next t ∧
        t.phase = .drain ∧ t.busy = true ∧ t.rxq = [] ∧ t.agenda = rest ∧
        t.draincnt = s.draincnt + BitVec.ofNat 32 ws.length ∧
        t.now = s.now + BitVec.ofNat 32 (ws.map Prod.fst).sum

/-! ## Invariants -/

/-- The invariant holds at reset. -/
def Obligations.InvariantAtReset : Prop := State.reset.Inv

/-- Every step keeps the invariant: buffer memory canonical, `rxq` within its depth, FRAME empty or a well-formed
request frame with zeros above (rules R39, R123), the engine in a phase of the legal operation CTRL holds with
RESULT = NONE (rules R41, R230), the fault bits recorded (rule R258), reset values while `rst` is asserted
(rule R280). -/
def Obligations.StepKeepsInvariant : Prop :=
  ∀ s t : State, s.Inv → step s = .next t → t.Inv

/-- From a state that meets the invariant no step faults or is refused: the framer has no trap and no stop
(rule R261), and `LinkRead` is never called on an empty queue (rule R70). -/
def Obligations.InvariantStepAnswers : Prop :=
  ∀ s : State, s.Inv → ∃ t, step s = .next t

/-- Every step keeps the canonical form of buffer memory. -/
def Obligations.StepKeepsMemoryCanonical : Prop :=
  ∀ s t : State, s.mem.wf = true → step s = .next t → t.mem.wf = true

/-! ## Whole-machine rules -/

/-- Rule R41: no step makes a phase transition the table does not list. -/
def Obligations.PhaseTransitionsLegal : Prop :=
  ∀ s t : State, step s = .next t → phaseMayGo s.phase t.phase = true

/-- Rules R24 and R45: BUSY rises only where a legal word is accepted, and falls only by an engine micro-step or
reset. -/
def Obligations.BusyRisesAndFalls : Prop :=
  ∀ s t : State, step s = .next t →
    (s.busy = false → t.busy = true →
      ∃ w i, s.nextMove = .hostWrite 0x000 w ∧ decode w = .ok i ∧ t.ctrl = w ∧ t.phase = .start) ∧
    (s.busy = true → t.busy = false → s.nextMove = .engine ∨ s.nextMove = .rst true)

/-- Rule R27: OVR is set by a host write to CTRL, TXLEN, RXCAP or TXBUF while BUSY = 1 alone, and cleared by a host
write of STATUS with bit 5 = 1 or by reset alone. -/
def Obligations.OvrSetAndCleared : Prop :=
  ∀ s t : State, step s = .next t →
    (s.ovr = false → t.ovr = true →
      s.busy = true ∧ ∃ a v, s.nextMove = .hostWrite a v ∧ isProtectedAddr a = true) ∧
    (s.ovr = true → t.ovr = false →
      (∃ v, s.nextMove = .hostWrite 0x004 v ∧ v.getLsbD 5 = true) ∨ s.nextMove = .rst true)

/-- Rule R28: ACCERR is set by a misaligned access, an access to a reserved address or a write to a read-only one
alone, and cleared by a host write of STATUS with bit 6 = 1 or by reset alone. -/
def Obligations.AccerrSetAndCleared : Prop :=
  ∀ s t : State, step s = .next t →
    (s.accerr = false → t.accerr = true →
      (∃ a, s.nextMove = .hostRead a ∧ (a.toNat % 4 ≠ 0 ∨ isReservedAddr a = true)) ∨
      (∃ a v, s.nextMove = .hostWrite a v ∧
        (a.toNat % 4 ≠ 0 ∨ isReservedAddr a = true ∨ isReadOnlyAddr a = true))) ∧
    (s.accerr = true → t.accerr = false →
      (∃ v, s.nextMove = .hostWrite 0x004 v ∧ v.getLsbD 6 = true) ∨ s.nextMove = .rst true)

/-- Rule R258: a fault once recorded stays recorded, and a step that sets a fault bit records it. -/
def Obligations.FaultRecordIsKept : Prop :=
  ∀ s t : State, step s = .next t →
    (s.faultRecorded = true → t.faultRecorded = true) ∧
    (s.ovr = false → t.ovr = true → t.ovrSeen = true) ∧
    (s.accerr = false → t.accerr = true → t.accerrSeen = true)

/-- Rule R22, its column "engine writes": an engine micro-step leaves CTRL, TXLEN, RXCAP, MARKER and TXBUF unchanged,
and it sets and clears neither fault bit (rule R45). -/
def Obligations.EngineLeavesHostRegisters : Prop :=
  ∀ (i : Instr) (s t : State), s.mem.wf = true → exec i s = .next t →
    t.ctrl = s.ctrl ∧ t.txlen = s.txlen ∧ t.rxcap = s.rxcap ∧ t.params = s.params ∧
    t.ovr = s.ovr ∧ t.accerr = s.accerr ∧ t.now = s.now ∧
    ∀ a, a < 0x800 → t.mem.read a = s.mem.read a

/-- Rules R43, R70 and R76: an engine micro-step removes at most one byte from `rxq`, from its head, and adds at most one
to `txq`, at the tail; only the link's receive side adds to `rxq`, at the tail. An arrival at a full queue costs one
byte, the arriving one or a queued one, the others keeping their order (which one is the model's argument,
notes/assumptions/8.md); the link's transmit side takes bytes from the front of `txq` (notes/assumptions/9.md). Nothing
else changes either stream. -/
def Obligations.LinkStreamsMoveByteByByte : Prop :=
  ∀ s t : State, step s = .next t →
    (t.rxq = s.rxq ∨
      (s.nextMove = .engine ∧ ∃ b, s.rxq = b :: t.rxq) ∨
      (∃ b lost, s.nextMove = .linkRx b lost ∧
        (s.rxq.length < s.params.rxqDepth → t.rxq = s.rxq ++ [b]) ∧
        (s.params.rxqDepth ≤ s.rxq.length → ∃ k, k ≤ s.rxq.length ∧ t.rxq = (s.rxq ++ [b]).eraseIdx k))) ∧
    (t.txq = s.txq ∨
      (s.nextMove = .engine ∧ ∃ b, t.txq = s.txq ++ [b]) ∨
      (∃ n, s.nextMove = .linkTx n ∧ t.txq = s.txq.drop n))

/-- Rules R6, R7, R8 and R44: only the clock agent moves `now`, by one; no step changes an instantiation parameter. That
an assertion of `rst` leaves `now` as it is is the model's choice, not the spec's: rule R46 calls `now` unspecified
after reset (notes/assumptions/5.md). -/
def Obligations.ClockAndParameters : Prop :=
  ∀ s t : State, step s = .next t →
    (t.now = s.now ∨ s.nextMove = .clock ∧ t.now = s.now + 1) ∧ t.params = s.params

/-- Rule R126: DRAIN, WAITBYTE and SEND never write CKSUM. SEND has no reply due, which rule R163 sees to. -/
def Obligations.ChecksumWriters : Prop :=
  ∀ (s t : State) (ms : BitVec 16),
    (exec .drain s = .next t → t.cksum = s.cksum) ∧
    (exec (.waitbyte ms) s = .next t → t.cksum = s.cksum) ∧
    (s.replyDue = false → exec .send s = .next t → t.cksum = s.cksum)

/-- Rule R182, corner cases: no micro-step of WAITBYTE changes `rxq`, CKSUM, any buffer or any register but STATUS
(the engine's own fields and RESULT aside). -/
def Obligations.WaitbyteLeavesRegisters : Prop :=
  ∀ (s t : State) (ms : BitVec 16), exec (.waitbyte ms) s = .next t →
    t = { s with
      result := t.result, phase := t.phase, replyDue := t.replyDue, drainNext := t.drainNext
      t0 := t.t0, budget := t.budget }

/-! ## Reset -/

/-- Rule R46: what reset leaves. STATUS reads 0, MARKER reads the parameter (0xAA as this spec takes it,
rule R22). -/
def Obligations.ResetValues : Prop :=
  State.reset.IsReset ∧ State.reset.status = 0 ∧ State.reset.params.marker = 0xAA ∧
  (∀ b j, State.reset.readBuf b j = 0) ∧
  State.reset.rxq.length ≤ State.reset.params.rxqDepth

/-- Rules R46, R280 and R281: asserting `rst` puts every register, buffer and engine field at its reset value in one step
from any state and leaves the link's queues and the parameters. The model's choices, not the spec's: `now` and `rdata`
stay as they are, where rule R46 calls `now` unspecified after reset (notes/assumptions/5.md); the record of faults
stays (notes/assumptions/13.md); `rst` is a level, and releasing it changes nothing but that level
(notes/assumptions/6.md). -/
def Obligations.ResetInputActs : Prop :=
  ∀ (s : State) (rest : List Move),
    (s.agenda = .rst true :: rest →
      ∃ t, step s = .next t ∧ t.IsReset ∧ t.rst = true ∧ t.rxq = s.rxq ∧ t.txq = s.txq ∧ t.now = s.now ∧
        t.params = s.params ∧ t.ovrSeen = s.ovrSeen ∧ t.accerrSeen = s.accerrSeen ∧ t.rdata = s.rdata ∧
        t.agenda = rest) ∧
    (s.agenda = .rst false :: rest → step s = .next { s with agenda := rest, rst := false })
end

