-- ==== Sys2Proof/Laws/Decode.lean ====
section
/-! SUPPORT. Fields and words: laying fields out in a word and reading them back. -/

namespace Sys2Proof

/-- The fields of a word laid out from fields are those fields. -/
theorem OpWord.ofWord_toWord (f : OpWord) : OpWord.ofWord f.toWord = f := by
  obtain ⟨a, c, r, p, sh, o⟩ := f
  simp only [OpWord.ofWord, OpWord.toWord, OpWord.mk.injEq]
  refine ⟨?_, ?_, ?_, ?_, ?_, ?_⟩ <;>
    (apply BitVec.eq_of_getLsbD_eq; intro i hi; simp) <;>
    grind

/-- A word decodes as its fields do. -/
theorem decode_toWord (f : OpWord) : decode f.toWord = f.decode := by
  rw [decode, OpWord.ofWord_toWord]

end Sys2Proof
end

