-- ==== Sys2Proof/Laws/State.lean ====
section
/-! SUPPORT. What each primitive update of State does to each field: one lemma per field per update. -/

namespace Sys2Proof.Machine

variable (s : State)

/-! ## ckInit -/

@[simp] theorem State.ckInit_ctrl : s.ckInit.ctrl = s.ctrl := rfl
@[simp] theorem State.ckInit_result : s.ckInit.result = s.result := rfl
@[simp] theorem State.ckInit_trunc : s.ckInit.trunc = s.trunc := rfl
@[simp] theorem State.ckInit_ovr : s.ckInit.ovr = s.ovr := rfl
@[simp] theorem State.ckInit_accerr : s.ckInit.accerr = s.accerr := rfl
@[simp] theorem State.ckInit_txlen : s.ckInit.txlen = s.txlen := rfl
@[simp] theorem State.ckInit_rxcap : s.ckInit.rxcap = s.rxcap := rfl
@[simp] theorem State.ckInit_rxlen : s.ckInit.rxlen = s.rxlen := rfl
@[simp] theorem State.ckInit_cksum : s.ckInit.cksum = 0 := rfl
@[simp] theorem State.ckInit_rxck : s.ckInit.rxck = s.rxck := rfl
@[simp] theorem State.ckInit_framelen : s.ckInit.framelen = s.framelen := rfl
@[simp] theorem State.ckInit_rxcount : s.ckInit.rxcount = s.rxcount := rfl
@[simp] theorem State.ckInit_draincnt : s.ckInit.draincnt = s.draincnt := rfl
@[simp] theorem State.ckInit_mem : s.ckInit.mem = s.mem := rfl
@[simp] theorem State.ckInit_phase : s.ckInit.phase = s.phase := rfl
@[simp] theorem State.ckInit_drainNext : s.ckInit.drainNext = s.drainNext := rfl
@[simp] theorem State.ckInit_replyDue : s.ckInit.replyDue = s.replyDue := rfl
@[simp] theorem State.ckInit_txIndex : s.ckInit.txIndex = s.txIndex := rfl
@[simp] theorem State.ckInit_t0 : s.ckInit.t0 = s.t0 := rfl
@[simp] theorem State.ckInit_budget : s.ckInit.budget = s.budget := rfl
@[simp] theorem State.ckInit_rxq : s.ckInit.rxq = s.rxq := rfl
@[simp] theorem State.ckInit_txq : s.ckInit.txq = s.txq := rfl
@[simp] theorem State.ckInit_now : s.ckInit.now = s.now := rfl
@[simp] theorem State.ckInit_rst : s.ckInit.rst = s.rst := rfl
@[simp] theorem State.ckInit_params : s.ckInit.params = s.params := rfl
@[simp] theorem State.ckInit_rdata : s.ckInit.rdata = s.rdata := rfl
@[simp] theorem State.ckInit_ovrSeen : s.ckInit.ovrSeen = s.ovrSeen := rfl
@[simp] theorem State.ckInit_accerrSeen : s.ckInit.accerrSeen = s.accerrSeen := rfl
@[simp] theorem State.ckInit_agenda : s.ckInit.agenda = s.agenda := rfl
@[simp] theorem State.ckInit_draws : s.ckInit.draws = s.draws := rfl

/-! ## ckAdd -/

@[simp] theorem State.ckAdd_ctrl (b : Byte) : (s.ckAdd b).ctrl = s.ctrl := rfl
@[simp] theorem State.ckAdd_result (b : Byte) : (s.ckAdd b).result = s.result := rfl
@[simp] theorem State.ckAdd_trunc (b : Byte) : (s.ckAdd b).trunc = s.trunc := rfl
@[simp] theorem State.ckAdd_ovr (b : Byte) : (s.ckAdd b).ovr = s.ovr := rfl
@[simp] theorem State.ckAdd_accerr (b : Byte) : (s.ckAdd b).accerr = s.accerr := rfl
@[simp] theorem State.ckAdd_txlen (b : Byte) : (s.ckAdd b).txlen = s.txlen := rfl
@[simp] theorem State.ckAdd_rxcap (b : Byte) : (s.ckAdd b).rxcap = s.rxcap := rfl
@[simp] theorem State.ckAdd_rxlen (b : Byte) : (s.ckAdd b).rxlen = s.rxlen := rfl
@[simp] theorem State.ckAdd_cksum (b : Byte) : (s.ckAdd b).cksum = s.cksum + b := rfl
@[simp] theorem State.ckAdd_rxck (b : Byte) : (s.ckAdd b).rxck = s.rxck := rfl
@[simp] theorem State.ckAdd_framelen (b : Byte) : (s.ckAdd b).framelen = s.framelen := rfl
@[simp] theorem State.ckAdd_rxcount (b : Byte) : (s.ckAdd b).rxcount = s.rxcount := rfl
@[simp] theorem State.ckAdd_draincnt (b : Byte) : (s.ckAdd b).draincnt = s.draincnt := rfl
@[simp] theorem State.ckAdd_mem (b : Byte) : (s.ckAdd b).mem = s.mem := rfl
@[simp] theorem State.ckAdd_phase (b : Byte) : (s.ckAdd b).phase = s.phase := rfl
@[simp] theorem State.ckAdd_drainNext (b : Byte) : (s.ckAdd b).drainNext = s.drainNext := rfl
@[simp] theorem State.ckAdd_replyDue (b : Byte) : (s.ckAdd b).replyDue = s.replyDue := rfl
@[simp] theorem State.ckAdd_txIndex (b : Byte) : (s.ckAdd b).txIndex = s.txIndex := rfl
@[simp] theorem State.ckAdd_t0 (b : Byte) : (s.ckAdd b).t0 = s.t0 := rfl
@[simp] theorem State.ckAdd_budget (b : Byte) : (s.ckAdd b).budget = s.budget := rfl
@[simp] theorem State.ckAdd_rxq (b : Byte) : (s.ckAdd b).rxq = s.rxq := rfl
@[simp] theorem State.ckAdd_txq (b : Byte) : (s.ckAdd b).txq = s.txq := rfl
@[simp] theorem State.ckAdd_now (b : Byte) : (s.ckAdd b).now = s.now := rfl
@[simp] theorem State.ckAdd_rst (b : Byte) : (s.ckAdd b).rst = s.rst := rfl
@[simp] theorem State.ckAdd_params (b : Byte) : (s.ckAdd b).params = s.params := rfl
@[simp] theorem State.ckAdd_rdata (b : Byte) : (s.ckAdd b).rdata = s.rdata := rfl
@[simp] theorem State.ckAdd_ovrSeen (b : Byte) : (s.ckAdd b).ovrSeen = s.ovrSeen := rfl
@[simp] theorem State.ckAdd_accerrSeen (b : Byte) : (s.ckAdd b).accerrSeen = s.accerrSeen := rfl
@[simp] theorem State.ckAdd_agenda (b : Byte) : (s.ckAdd b).agenda = s.agenda := rfl
@[simp] theorem State.ckAdd_draws (b : Byte) : (s.ckAdd b).draws = s.draws := rfl

/-! ## writeBuf -/

@[simp] theorem State.writeBuf_ctrl (b : Buf) (i : Nat) (v : Byte) : (s.writeBuf b i v).ctrl = s.ctrl := by unfold State.writeBuf; split <;> rfl
@[simp] theorem State.writeBuf_result (b : Buf) (i : Nat) (v : Byte) : (s.writeBuf b i v).result = s.result := by unfold State.writeBuf; split <;> rfl
@[simp] theorem State.writeBuf_trunc (b : Buf) (i : Nat) (v : Byte) : (s.writeBuf b i v).trunc = s.trunc := by unfold State.writeBuf; split <;> rfl
@[simp] theorem State.writeBuf_ovr (b : Buf) (i : Nat) (v : Byte) : (s.writeBuf b i v).ovr = s.ovr := by unfold State.writeBuf; split <;> rfl
@[simp] theorem State.writeBuf_accerr (b : Buf) (i : Nat) (v : Byte) : (s.writeBuf b i v).accerr = s.accerr := by unfold State.writeBuf; split <;> rfl
@[simp] theorem State.writeBuf_txlen (b : Buf) (i : Nat) (v : Byte) : (s.writeBuf b i v).txlen = s.txlen := by unfold State.writeBuf; split <;> rfl
@[simp] theorem State.writeBuf_rxcap (b : Buf) (i : Nat) (v : Byte) : (s.writeBuf b i v).rxcap = s.rxcap := by unfold State.writeBuf; split <;> rfl
@[simp] theorem State.writeBuf_rxlen (b : Buf) (i : Nat) (v : Byte) : (s.writeBuf b i v).rxlen = s.rxlen := by unfold State.writeBuf; split <;> rfl
@[simp] theorem State.writeBuf_cksum (b : Buf) (i : Nat) (v : Byte) : (s.writeBuf b i v).cksum = s.cksum := by unfold State.writeBuf; split <;> rfl
@[simp] theorem State.writeBuf_rxck (b : Buf) (i : Nat) (v : Byte) : (s.writeBuf b i v).rxck = s.rxck := by unfold State.writeBuf; split <;> rfl
@[simp] theorem State.writeBuf_framelen (b : Buf) (i : Nat) (v : Byte) : (s.writeBuf b i v).framelen = s.framelen := by unfold State.writeBuf; split <;> rfl
@[simp] theorem State.writeBuf_rxcount (b : Buf) (i : Nat) (v : Byte) : (s.writeBuf b i v).rxcount = s.rxcount := by unfold State.writeBuf; split <;> rfl
@[simp] theorem State.writeBuf_draincnt (b : Buf) (i : Nat) (v : Byte) : (s.writeBuf b i v).draincnt = s.draincnt := by unfold State.writeBuf; split <;> rfl
@[simp] theorem State.writeBuf_phase (b : Buf) (i : Nat) (v : Byte) : (s.writeBuf b i v).phase = s.phase := by unfold State.writeBuf; split <;> rfl
@[simp] theorem State.writeBuf_drainNext (b : Buf) (i : Nat) (v : Byte) : (s.writeBuf b i v).drainNext = s.drainNext := by unfold State.writeBuf; split <;> rfl
@[simp] theorem State.writeBuf_replyDue (b : Buf) (i : Nat) (v : Byte) : (s.writeBuf b i v).replyDue = s.replyDue := by unfold State.writeBuf; split <;> rfl
@[simp] theorem State.writeBuf_txIndex (b : Buf) (i : Nat) (v : Byte) : (s.writeBuf b i v).txIndex = s.txIndex := by unfold State.writeBuf; split <;> rfl
@[simp] theorem State.writeBuf_t0 (b : Buf) (i : Nat) (v : Byte) : (s.writeBuf b i v).t0 = s.t0 := by unfold State.writeBuf; split <;> rfl
@[simp] theorem State.writeBuf_budget (b : Buf) (i : Nat) (v : Byte) : (s.writeBuf b i v).budget = s.budget := by unfold State.writeBuf; split <;> rfl
@[simp] theorem State.writeBuf_rxq (b : Buf) (i : Nat) (v : Byte) : (s.writeBuf b i v).rxq = s.rxq := by unfold State.writeBuf; split <;> rfl
@[simp] theorem State.writeBuf_txq (b : Buf) (i : Nat) (v : Byte) : (s.writeBuf b i v).txq = s.txq := by unfold State.writeBuf; split <;> rfl
@[simp] theorem State.writeBuf_now (b : Buf) (i : Nat) (v : Byte) : (s.writeBuf b i v).now = s.now := by unfold State.writeBuf; split <;> rfl
@[simp] theorem State.writeBuf_rst (b : Buf) (i : Nat) (v : Byte) : (s.writeBuf b i v).rst = s.rst := by unfold State.writeBuf; split <;> rfl
@[simp] theorem State.writeBuf_params (b : Buf) (i : Nat) (v : Byte) : (s.writeBuf b i v).params = s.params := by unfold State.writeBuf; split <;> rfl
@[simp] theorem State.writeBuf_rdata (b : Buf) (i : Nat) (v : Byte) : (s.writeBuf b i v).rdata = s.rdata := by unfold State.writeBuf; split <;> rfl
@[simp] theorem State.writeBuf_ovrSeen (b : Buf) (i : Nat) (v : Byte) : (s.writeBuf b i v).ovrSeen = s.ovrSeen := by unfold State.writeBuf; split <;> rfl
@[simp] theorem State.writeBuf_accerrSeen (b : Buf) (i : Nat) (v : Byte) : (s.writeBuf b i v).accerrSeen = s.accerrSeen := by unfold State.writeBuf; split <;> rfl
@[simp] theorem State.writeBuf_agenda (b : Buf) (i : Nat) (v : Byte) : (s.writeBuf b i v).agenda = s.agenda := by unfold State.writeBuf; split <;> rfl
@[simp] theorem State.writeBuf_draws (b : Buf) (i : Nat) (v : Byte) : (s.writeBuf b i v).draws = s.draws := by unfold State.writeBuf; split <;> rfl

/-! ## clearBuf -/

@[simp] theorem State.clearBuf_ctrl (b : Buf) (i : Nat) : (s.clearBuf b i).ctrl = s.ctrl := rfl
@[simp] theorem State.clearBuf_result (b : Buf) (i : Nat) : (s.clearBuf b i).result = s.result := rfl
@[simp] theorem State.clearBuf_trunc (b : Buf) (i : Nat) : (s.clearBuf b i).trunc = s.trunc := rfl
@[simp] theorem State.clearBuf_ovr (b : Buf) (i : Nat) : (s.clearBuf b i).ovr = s.ovr := rfl
@[simp] theorem State.clearBuf_accerr (b : Buf) (i : Nat) : (s.clearBuf b i).accerr = s.accerr := rfl
@[simp] theorem State.clearBuf_txlen (b : Buf) (i : Nat) : (s.clearBuf b i).txlen = s.txlen := rfl
@[simp] theorem State.clearBuf_rxcap (b : Buf) (i : Nat) : (s.clearBuf b i).rxcap = s.rxcap := rfl
@[simp] theorem State.clearBuf_rxlen (b : Buf) (i : Nat) : (s.clearBuf b i).rxlen = s.rxlen := rfl
@[simp] theorem State.clearBuf_cksum (b : Buf) (i : Nat) : (s.clearBuf b i).cksum = s.cksum := rfl
@[simp] theorem State.clearBuf_rxck (b : Buf) (i : Nat) : (s.clearBuf b i).rxck = s.rxck := rfl
@[simp] theorem State.clearBuf_framelen (b : Buf) (i : Nat) : (s.clearBuf b i).framelen = s.framelen := rfl
@[simp] theorem State.clearBuf_rxcount (b : Buf) (i : Nat) : (s.clearBuf b i).rxcount = s.rxcount := rfl
@[simp] theorem State.clearBuf_draincnt (b : Buf) (i : Nat) : (s.clearBuf b i).draincnt = s.draincnt := rfl
@[simp] theorem State.clearBuf_mem (b : Buf) (i : Nat) : (s.clearBuf b i).mem = s.mem.clear (b.addr i) (b.addr b.size) := rfl
@[simp] theorem State.clearBuf_phase (b : Buf) (i : Nat) : (s.clearBuf b i).phase = s.phase := rfl
@[simp] theorem State.clearBuf_drainNext (b : Buf) (i : Nat) : (s.clearBuf b i).drainNext = s.drainNext := rfl
@[simp] theorem State.clearBuf_replyDue (b : Buf) (i : Nat) : (s.clearBuf b i).replyDue = s.replyDue := rfl
@[simp] theorem State.clearBuf_txIndex (b : Buf) (i : Nat) : (s.clearBuf b i).txIndex = s.txIndex := rfl
@[simp] theorem State.clearBuf_t0 (b : Buf) (i : Nat) : (s.clearBuf b i).t0 = s.t0 := rfl
@[simp] theorem State.clearBuf_budget (b : Buf) (i : Nat) : (s.clearBuf b i).budget = s.budget := rfl
@[simp] theorem State.clearBuf_rxq (b : Buf) (i : Nat) : (s.clearBuf b i).rxq = s.rxq := rfl
@[simp] theorem State.clearBuf_txq (b : Buf) (i : Nat) : (s.clearBuf b i).txq = s.txq := rfl
@[simp] theorem State.clearBuf_now (b : Buf) (i : Nat) : (s.clearBuf b i).now = s.now := rfl
@[simp] theorem State.clearBuf_rst (b : Buf) (i : Nat) : (s.clearBuf b i).rst = s.rst := rfl
@[simp] theorem State.clearBuf_params (b : Buf) (i : Nat) : (s.clearBuf b i).params = s.params := rfl
@[simp] theorem State.clearBuf_rdata (b : Buf) (i : Nat) : (s.clearBuf b i).rdata = s.rdata := rfl
@[simp] theorem State.clearBuf_ovrSeen (b : Buf) (i : Nat) : (s.clearBuf b i).ovrSeen = s.ovrSeen := rfl
@[simp] theorem State.clearBuf_accerrSeen (b : Buf) (i : Nat) : (s.clearBuf b i).accerrSeen = s.accerrSeen := rfl
@[simp] theorem State.clearBuf_agenda (b : Buf) (i : Nat) : (s.clearBuf b i).agenda = s.agenda := rfl
@[simp] theorem State.clearBuf_draws (b : Buf) (i : Nat) : (s.clearBuf b i).draws = s.draws := rfl

/-! ## linkWrite -/

@[simp] theorem State.linkWrite_ctrl (b : Byte) : (s.linkWrite b).ctrl = s.ctrl := rfl
@[simp] theorem State.linkWrite_result (b : Byte) : (s.linkWrite b).result = s.result := rfl
@[simp] theorem State.linkWrite_trunc (b : Byte) : (s.linkWrite b).trunc = s.trunc := rfl
@[simp] theorem State.linkWrite_ovr (b : Byte) : (s.linkWrite b).ovr = s.ovr := rfl
@[simp] theorem State.linkWrite_accerr (b : Byte) : (s.linkWrite b).accerr = s.accerr := rfl
@[simp] theorem State.linkWrite_txlen (b : Byte) : (s.linkWrite b).txlen = s.txlen := rfl
@[simp] theorem State.linkWrite_rxcap (b : Byte) : (s.linkWrite b).rxcap = s.rxcap := rfl
@[simp] theorem State.linkWrite_rxlen (b : Byte) : (s.linkWrite b).rxlen = s.rxlen := rfl
@[simp] theorem State.linkWrite_cksum (b : Byte) : (s.linkWrite b).cksum = s.cksum := rfl
@[simp] theorem State.linkWrite_rxck (b : Byte) : (s.linkWrite b).rxck = s.rxck := rfl
@[simp] theorem State.linkWrite_framelen (b : Byte) : (s.linkWrite b).framelen = s.framelen := rfl
@[simp] theorem State.linkWrite_rxcount (b : Byte) : (s.linkWrite b).rxcount = s.rxcount := rfl
@[simp] theorem State.linkWrite_draincnt (b : Byte) : (s.linkWrite b).draincnt = s.draincnt := rfl
@[simp] theorem State.linkWrite_mem (b : Byte) : (s.linkWrite b).mem = s.mem := rfl
@[simp] theorem State.linkWrite_phase (b : Byte) : (s.linkWrite b).phase = s.phase := rfl
@[simp] theorem State.linkWrite_drainNext (b : Byte) : (s.linkWrite b).drainNext = s.drainNext := rfl
@[simp] theorem State.linkWrite_replyDue (b : Byte) : (s.linkWrite b).replyDue = s.replyDue := rfl
@[simp] theorem State.linkWrite_txIndex (b : Byte) : (s.linkWrite b).txIndex = s.txIndex := rfl
@[simp] theorem State.linkWrite_t0 (b : Byte) : (s.linkWrite b).t0 = s.t0 := rfl
@[simp] theorem State.linkWrite_budget (b : Byte) : (s.linkWrite b).budget = s.budget := rfl
@[simp] theorem State.linkWrite_rxq (b : Byte) : (s.linkWrite b).rxq = s.rxq := rfl
@[simp] theorem State.linkWrite_txq (b : Byte) : (s.linkWrite b).txq = s.txq ++ [b] := rfl
@[simp] theorem State.linkWrite_now (b : Byte) : (s.linkWrite b).now = s.now := rfl
@[simp] theorem State.linkWrite_rst (b : Byte) : (s.linkWrite b).rst = s.rst := rfl
@[simp] theorem State.linkWrite_params (b : Byte) : (s.linkWrite b).params = s.params := rfl
@[simp] theorem State.linkWrite_rdata (b : Byte) : (s.linkWrite b).rdata = s.rdata := rfl
@[simp] theorem State.linkWrite_ovrSeen (b : Byte) : (s.linkWrite b).ovrSeen = s.ovrSeen := rfl
@[simp] theorem State.linkWrite_accerrSeen (b : Byte) : (s.linkWrite b).accerrSeen = s.accerrSeen := rfl
@[simp] theorem State.linkWrite_agenda (b : Byte) : (s.linkWrite b).agenda = s.agenda := rfl
@[simp] theorem State.linkWrite_draws (b : Byte) : (s.linkWrite b).draws = s.draws := rfl

/-! ## enterWait -/

@[simp] theorem State.enterWait_ctrl (T : BitVec 16) : (s.enterWait T).ctrl = s.ctrl := rfl
@[simp] theorem State.enterWait_result (T : BitVec 16) : (s.enterWait T).result = s.result := rfl
@[simp] theorem State.enterWait_trunc (T : BitVec 16) : (s.enterWait T).trunc = s.trunc := rfl
@[simp] theorem State.enterWait_ovr (T : BitVec 16) : (s.enterWait T).ovr = s.ovr := rfl
@[simp] theorem State.enterWait_accerr (T : BitVec 16) : (s.enterWait T).accerr = s.accerr := rfl
@[simp] theorem State.enterWait_txlen (T : BitVec 16) : (s.enterWait T).txlen = s.txlen := rfl
@[simp] theorem State.enterWait_rxcap (T : BitVec 16) : (s.enterWait T).rxcap = s.rxcap := rfl
@[simp] theorem State.enterWait_rxlen (T : BitVec 16) : (s.enterWait T).rxlen = s.rxlen := rfl
@[simp] theorem State.enterWait_cksum (T : BitVec 16) : (s.enterWait T).cksum = s.cksum := rfl
@[simp] theorem State.enterWait_rxck (T : BitVec 16) : (s.enterWait T).rxck = s.rxck := rfl
@[simp] theorem State.enterWait_framelen (T : BitVec 16) : (s.enterWait T).framelen = s.framelen := rfl
@[simp] theorem State.enterWait_rxcount (T : BitVec 16) : (s.enterWait T).rxcount = s.rxcount := rfl
@[simp] theorem State.enterWait_draincnt (T : BitVec 16) : (s.enterWait T).draincnt = s.draincnt := rfl
@[simp] theorem State.enterWait_mem (T : BitVec 16) : (s.enterWait T).mem = s.mem := rfl
@[simp] theorem State.enterWait_phase (T : BitVec 16) : (s.enterWait T).phase = s.phase := rfl
@[simp] theorem State.enterWait_drainNext (T : BitVec 16) : (s.enterWait T).drainNext = s.drainNext := rfl
@[simp] theorem State.enterWait_replyDue (T : BitVec 16) : (s.enterWait T).replyDue = s.replyDue := rfl
@[simp] theorem State.enterWait_txIndex (T : BitVec 16) : (s.enterWait T).txIndex = s.txIndex := rfl
@[simp] theorem State.enterWait_t0 (T : BitVec 16) : (s.enterWait T).t0 = s.now := rfl
@[simp] theorem State.enterWait_budget (T : BitVec 16) : (s.enterWait T).budget = T := rfl
@[simp] theorem State.enterWait_rxq (T : BitVec 16) : (s.enterWait T).rxq = s.rxq := rfl
@[simp] theorem State.enterWait_txq (T : BitVec 16) : (s.enterWait T).txq = s.txq := rfl
@[simp] theorem State.enterWait_now (T : BitVec 16) : (s.enterWait T).now = s.now := rfl
@[simp] theorem State.enterWait_rst (T : BitVec 16) : (s.enterWait T).rst = s.rst := rfl
@[simp] theorem State.enterWait_params (T : BitVec 16) : (s.enterWait T).params = s.params := rfl
@[simp] theorem State.enterWait_rdata (T : BitVec 16) : (s.enterWait T).rdata = s.rdata := rfl
@[simp] theorem State.enterWait_ovrSeen (T : BitVec 16) : (s.enterWait T).ovrSeen = s.ovrSeen := rfl
@[simp] theorem State.enterWait_accerrSeen (T : BitVec 16) : (s.enterWait T).accerrSeen = s.accerrSeen := rfl
@[simp] theorem State.enterWait_agenda (T : BitVec 16) : (s.enterWait T).agenda = s.agenda := rfl
@[simp] theorem State.enterWait_draws (T : BitVec 16) : (s.enterWait T).draws = s.draws := rfl

/-! ## accept -/

@[simp] theorem State.accept_ctrl (w : Word) : (s.accept w).ctrl = w := rfl
@[simp] theorem State.accept_result (w : Word) : (s.accept w).result = .none := rfl
@[simp] theorem State.accept_trunc (w : Word) : (s.accept w).trunc = false := rfl
@[simp] theorem State.accept_ovr (w : Word) : (s.accept w).ovr = s.ovr := rfl
@[simp] theorem State.accept_accerr (w : Word) : (s.accept w).accerr = s.accerr := rfl
@[simp] theorem State.accept_txlen (w : Word) : (s.accept w).txlen = s.txlen := rfl
@[simp] theorem State.accept_rxcap (w : Word) : (s.accept w).rxcap = s.rxcap := rfl
@[simp] theorem State.accept_rxlen (w : Word) : (s.accept w).rxlen = s.rxlen := rfl
@[simp] theorem State.accept_cksum (w : Word) : (s.accept w).cksum = s.cksum := rfl
@[simp] theorem State.accept_rxck (w : Word) : (s.accept w).rxck = s.rxck := rfl
@[simp] theorem State.accept_framelen (w : Word) : (s.accept w).framelen = s.framelen := rfl
@[simp] theorem State.accept_rxcount (w : Word) : (s.accept w).rxcount = s.rxcount := rfl
@[simp] theorem State.accept_draincnt (w : Word) : (s.accept w).draincnt = s.draincnt := rfl
@[simp] theorem State.accept_mem (w : Word) : (s.accept w).mem = s.mem := rfl
@[simp] theorem State.accept_phase (w : Word) : (s.accept w).phase = .start := rfl
@[simp] theorem State.accept_drainNext (w : Word) : (s.accept w).drainNext = .finish := rfl
@[simp] theorem State.accept_replyDue (w : Word) : (s.accept w).replyDue = false := rfl
@[simp] theorem State.accept_txIndex (w : Word) : (s.accept w).txIndex = 0 := rfl
@[simp] theorem State.accept_t0 (w : Word) : (s.accept w).t0 = s.t0 := rfl
@[simp] theorem State.accept_budget (w : Word) : (s.accept w).budget = s.budget := rfl
@[simp] theorem State.accept_rxq (w : Word) : (s.accept w).rxq = s.rxq := rfl
@[simp] theorem State.accept_txq (w : Word) : (s.accept w).txq = s.txq := rfl
@[simp] theorem State.accept_now (w : Word) : (s.accept w).now = s.now := rfl
@[simp] theorem State.accept_rst (w : Word) : (s.accept w).rst = s.rst := rfl
@[simp] theorem State.accept_params (w : Word) : (s.accept w).params = s.params := rfl
@[simp] theorem State.accept_rdata (w : Word) : (s.accept w).rdata = s.rdata := rfl
@[simp] theorem State.accept_ovrSeen (w : Word) : (s.accept w).ovrSeen = s.ovrSeen := rfl
@[simp] theorem State.accept_accerrSeen (w : Word) : (s.accept w).accerrSeen = s.accerrSeen := rfl
@[simp] theorem State.accept_agenda (w : Word) : (s.accept w).agenda = s.agenda := rfl
@[simp] theorem State.accept_draws (w : Word) : (s.accept w).draws = s.draws := rfl

/-! ## raiseResult -/

@[simp] theorem State.raiseResult_ctrl (c : OpResult) : (s.raiseResult c).ctrl = s.ctrl := rfl
@[simp] theorem State.raiseResult_result (c : OpResult) : (s.raiseResult c).result = c := rfl
@[simp] theorem State.raiseResult_trunc (c : OpResult) : (s.raiseResult c).trunc = s.trunc := rfl
@[simp] theorem State.raiseResult_ovr (c : OpResult) : (s.raiseResult c).ovr = s.ovr := rfl
@[simp] theorem State.raiseResult_accerr (c : OpResult) : (s.raiseResult c).accerr = s.accerr := rfl
@[simp] theorem State.raiseResult_txlen (c : OpResult) : (s.raiseResult c).txlen = s.txlen := rfl
@[simp] theorem State.raiseResult_rxcap (c : OpResult) : (s.raiseResult c).rxcap = s.rxcap := rfl
@[simp] theorem State.raiseResult_rxlen (c : OpResult) : (s.raiseResult c).rxlen = s.rxlen := rfl
@[simp] theorem State.raiseResult_cksum (c : OpResult) : (s.raiseResult c).cksum = s.cksum := rfl
@[simp] theorem State.raiseResult_rxck (c : OpResult) : (s.raiseResult c).rxck = s.rxck := rfl
@[simp] theorem State.raiseResult_framelen (c : OpResult) : (s.raiseResult c).framelen = s.framelen := rfl
@[simp] theorem State.raiseResult_rxcount (c : OpResult) : (s.raiseResult c).rxcount = s.rxcount := rfl
@[simp] theorem State.raiseResult_draincnt (c : OpResult) : (s.raiseResult c).draincnt = s.draincnt := rfl
@[simp] theorem State.raiseResult_mem (c : OpResult) : (s.raiseResult c).mem = s.mem := rfl
@[simp] theorem State.raiseResult_phase (c : OpResult) : (s.raiseResult c).phase = .idle := rfl
@[simp] theorem State.raiseResult_drainNext (c : OpResult) : (s.raiseResult c).drainNext = .finish := rfl
@[simp] theorem State.raiseResult_replyDue (c : OpResult) : (s.raiseResult c).replyDue = false := rfl
@[simp] theorem State.raiseResult_txIndex (c : OpResult) : (s.raiseResult c).txIndex = s.txIndex := rfl
@[simp] theorem State.raiseResult_t0 (c : OpResult) : (s.raiseResult c).t0 = s.t0 := rfl
@[simp] theorem State.raiseResult_budget (c : OpResult) : (s.raiseResult c).budget = s.budget := rfl
@[simp] theorem State.raiseResult_rxq (c : OpResult) : (s.raiseResult c).rxq = s.rxq := rfl
@[simp] theorem State.raiseResult_txq (c : OpResult) : (s.raiseResult c).txq = s.txq := rfl
@[simp] theorem State.raiseResult_now (c : OpResult) : (s.raiseResult c).now = s.now := rfl
@[simp] theorem State.raiseResult_rst (c : OpResult) : (s.raiseResult c).rst = s.rst := rfl
@[simp] theorem State.raiseResult_params (c : OpResult) : (s.raiseResult c).params = s.params := rfl
@[simp] theorem State.raiseResult_rdata (c : OpResult) : (s.raiseResult c).rdata = s.rdata := rfl
@[simp] theorem State.raiseResult_ovrSeen (c : OpResult) : (s.raiseResult c).ovrSeen = s.ovrSeen := rfl
@[simp] theorem State.raiseResult_accerrSeen (c : OpResult) : (s.raiseResult c).accerrSeen = s.accerrSeen := rfl
@[simp] theorem State.raiseResult_agenda (c : OpResult) : (s.raiseResult c).agenda = s.agenda := rfl
@[simp] theorem State.raiseResult_draws (c : OpResult) : (s.raiseResult c).draws = s.draws := rfl

/-! ## accessError -/

@[simp] theorem State.accessError_ctrl : s.accessError.ctrl = s.ctrl := rfl
@[simp] theorem State.accessError_result : s.accessError.result = s.result := rfl
@[simp] theorem State.accessError_trunc : s.accessError.trunc = s.trunc := rfl
@[simp] theorem State.accessError_ovr : s.accessError.ovr = s.ovr := rfl
@[simp] theorem State.accessError_accerr : s.accessError.accerr = true := rfl
@[simp] theorem State.accessError_txlen : s.accessError.txlen = s.txlen := rfl
@[simp] theorem State.accessError_rxcap : s.accessError.rxcap = s.rxcap := rfl
@[simp] theorem State.accessError_rxlen : s.accessError.rxlen = s.rxlen := rfl
@[simp] theorem State.accessError_cksum : s.accessError.cksum = s.cksum := rfl
@[simp] theorem State.accessError_rxck : s.accessError.rxck = s.rxck := rfl
@[simp] theorem State.accessError_framelen : s.accessError.framelen = s.framelen := rfl
@[simp] theorem State.accessError_rxcount : s.accessError.rxcount = s.rxcount := rfl
@[simp] theorem State.accessError_draincnt : s.accessError.draincnt = s.draincnt := rfl
@[simp] theorem State.accessError_mem : s.accessError.mem = s.mem := rfl
@[simp] theorem State.accessError_phase : s.accessError.phase = s.phase := rfl
@[simp] theorem State.accessError_drainNext : s.accessError.drainNext = s.drainNext := rfl
@[simp] theorem State.accessError_replyDue : s.accessError.replyDue = s.replyDue := rfl
@[simp] theorem State.accessError_txIndex : s.accessError.txIndex = s.txIndex := rfl
@[simp] theorem State.accessError_t0 : s.accessError.t0 = s.t0 := rfl
@[simp] theorem State.accessError_budget : s.accessError.budget = s.budget := rfl
@[simp] theorem State.accessError_rxq : s.accessError.rxq = s.rxq := rfl
@[simp] theorem State.accessError_txq : s.accessError.txq = s.txq := rfl
@[simp] theorem State.accessError_now : s.accessError.now = s.now := rfl
@[simp] theorem State.accessError_rst : s.accessError.rst = s.rst := rfl
@[simp] theorem State.accessError_params : s.accessError.params = s.params := rfl
@[simp] theorem State.accessError_rdata : s.accessError.rdata = s.rdata := rfl
@[simp] theorem State.accessError_ovrSeen : s.accessError.ovrSeen = s.ovrSeen := rfl
@[simp] theorem State.accessError_accerrSeen : s.accessError.accerrSeen = true := rfl
@[simp] theorem State.accessError_agenda : s.accessError.agenda = s.agenda := rfl
@[simp] theorem State.accessError_draws : s.accessError.draws = s.draws := rfl

/-! ## overrun -/

@[simp] theorem State.overrun_ctrl : s.overrun.ctrl = s.ctrl := rfl
@[simp] theorem State.overrun_result : s.overrun.result = s.result := rfl
@[simp] theorem State.overrun_trunc : s.overrun.trunc = s.trunc := rfl
@[simp] theorem State.overrun_ovr : s.overrun.ovr = true := rfl
@[simp] theorem State.overrun_accerr : s.overrun.accerr = s.accerr := rfl
@[simp] theorem State.overrun_txlen : s.overrun.txlen = s.txlen := rfl
@[simp] theorem State.overrun_rxcap : s.overrun.rxcap = s.rxcap := rfl
@[simp] theorem State.overrun_rxlen : s.overrun.rxlen = s.rxlen := rfl
@[simp] theorem State.overrun_cksum : s.overrun.cksum = s.cksum := rfl
@[simp] theorem State.overrun_rxck : s.overrun.rxck = s.rxck := rfl
@[simp] theorem State.overrun_framelen : s.overrun.framelen = s.framelen := rfl
@[simp] theorem State.overrun_rxcount : s.overrun.rxcount = s.rxcount := rfl
@[simp] theorem State.overrun_draincnt : s.overrun.draincnt = s.draincnt := rfl
@[simp] theorem State.overrun_mem : s.overrun.mem = s.mem := rfl
@[simp] theorem State.overrun_phase : s.overrun.phase = s.phase := rfl
@[simp] theorem State.overrun_drainNext : s.overrun.drainNext = s.drainNext := rfl
@[simp] theorem State.overrun_replyDue : s.overrun.replyDue = s.replyDue := rfl
@[simp] theorem State.overrun_txIndex : s.overrun.txIndex = s.txIndex := rfl
@[simp] theorem State.overrun_t0 : s.overrun.t0 = s.t0 := rfl
@[simp] theorem State.overrun_budget : s.overrun.budget = s.budget := rfl
@[simp] theorem State.overrun_rxq : s.overrun.rxq = s.rxq := rfl
@[simp] theorem State.overrun_txq : s.overrun.txq = s.txq := rfl
@[simp] theorem State.overrun_now : s.overrun.now = s.now := rfl
@[simp] theorem State.overrun_rst : s.overrun.rst = s.rst := rfl
@[simp] theorem State.overrun_params : s.overrun.params = s.params := rfl
@[simp] theorem State.overrun_rdata : s.overrun.rdata = s.rdata := rfl
@[simp] theorem State.overrun_ovrSeen : s.overrun.ovrSeen = true := rfl
@[simp] theorem State.overrun_accerrSeen : s.overrun.accerrSeen = s.accerrSeen := rfl
@[simp] theorem State.overrun_agenda : s.overrun.agenda = s.agenda := rfl
@[simp] theorem State.overrun_draws : s.overrun.draws = s.draws := rfl

/-! ## clearFaultBits -/

@[simp] theorem State.clearFaultBits_ctrl (v : Word) : (s.clearFaultBits v).ctrl = s.ctrl := rfl
@[simp] theorem State.clearFaultBits_result (v : Word) : (s.clearFaultBits v).result = s.result := rfl
@[simp] theorem State.clearFaultBits_trunc (v : Word) : (s.clearFaultBits v).trunc = s.trunc := rfl
@[simp] theorem State.clearFaultBits_ovr (v : Word) : (s.clearFaultBits v).ovr = (s.ovr && !v.getLsbD 5) := rfl
@[simp] theorem State.clearFaultBits_accerr (v : Word) : (s.clearFaultBits v).accerr = (s.accerr && !v.getLsbD 6) := rfl
@[simp] theorem State.clearFaultBits_txlen (v : Word) : (s.clearFaultBits v).txlen = s.txlen := rfl
@[simp] theorem State.clearFaultBits_rxcap (v : Word) : (s.clearFaultBits v).rxcap = s.rxcap := rfl
@[simp] theorem State.clearFaultBits_rxlen (v : Word) : (s.clearFaultBits v).rxlen = s.rxlen := rfl
@[simp] theorem State.clearFaultBits_cksum (v : Word) : (s.clearFaultBits v).cksum = s.cksum := rfl
@[simp] theorem State.clearFaultBits_rxck (v : Word) : (s.clearFaultBits v).rxck = s.rxck := rfl
@[simp] theorem State.clearFaultBits_framelen (v : Word) : (s.clearFaultBits v).framelen = s.framelen := rfl
@[simp] theorem State.clearFaultBits_rxcount (v : Word) : (s.clearFaultBits v).rxcount = s.rxcount := rfl
@[simp] theorem State.clearFaultBits_draincnt (v : Word) : (s.clearFaultBits v).draincnt = s.draincnt := rfl
@[simp] theorem State.clearFaultBits_mem (v : Word) : (s.clearFaultBits v).mem = s.mem := rfl
@[simp] theorem State.clearFaultBits_phase (v : Word) : (s.clearFaultBits v).phase = s.phase := rfl
@[simp] theorem State.clearFaultBits_drainNext (v : Word) : (s.clearFaultBits v).drainNext = s.drainNext := rfl
@[simp] theorem State.clearFaultBits_replyDue (v : Word) : (s.clearFaultBits v).replyDue = s.replyDue := rfl
@[simp] theorem State.clearFaultBits_txIndex (v : Word) : (s.clearFaultBits v).txIndex = s.txIndex := rfl
@[simp] theorem State.clearFaultBits_t0 (v : Word) : (s.clearFaultBits v).t0 = s.t0 := rfl
@[simp] theorem State.clearFaultBits_budget (v : Word) : (s.clearFaultBits v).budget = s.budget := rfl
@[simp] theorem State.clearFaultBits_rxq (v : Word) : (s.clearFaultBits v).rxq = s.rxq := rfl
@[simp] theorem State.clearFaultBits_txq (v : Word) : (s.clearFaultBits v).txq = s.txq := rfl
@[simp] theorem State.clearFaultBits_now (v : Word) : (s.clearFaultBits v).now = s.now := rfl
@[simp] theorem State.clearFaultBits_rst (v : Word) : (s.clearFaultBits v).rst = s.rst := rfl
@[simp] theorem State.clearFaultBits_params (v : Word) : (s.clearFaultBits v).params = s.params := rfl
@[simp] theorem State.clearFaultBits_rdata (v : Word) : (s.clearFaultBits v).rdata = s.rdata := rfl
@[simp] theorem State.clearFaultBits_ovrSeen (v : Word) : (s.clearFaultBits v).ovrSeen = s.ovrSeen := rfl
@[simp] theorem State.clearFaultBits_accerrSeen (v : Word) : (s.clearFaultBits v).accerrSeen = s.accerrSeen := rfl
@[simp] theorem State.clearFaultBits_agenda (v : Word) : (s.clearFaultBits v).agenda = s.agenda := rfl
@[simp] theorem State.clearFaultBits_draws (v : Word) : (s.clearFaultBits v).draws = s.draws := rfl

/-! ## noteLength -/

@[simp] theorem State.noteLength_ctrl (b : Byte) : (s.noteLength b).ctrl = s.ctrl := rfl
@[simp] theorem State.noteLength_result (b : Byte) : (s.noteLength b).result = s.result := rfl
@[simp] theorem State.noteLength_trunc (b : Byte) : (s.noteLength b).trunc = (s.trunc || decide (s.rxcap.toNat < b.toNat)) := rfl
@[simp] theorem State.noteLength_ovr (b : Byte) : (s.noteLength b).ovr = s.ovr := rfl
@[simp] theorem State.noteLength_accerr (b : Byte) : (s.noteLength b).accerr = s.accerr := rfl
@[simp] theorem State.noteLength_txlen (b : Byte) : (s.noteLength b).txlen = s.txlen := rfl
@[simp] theorem State.noteLength_rxcap (b : Byte) : (s.noteLength b).rxcap = s.rxcap := rfl
@[simp] theorem State.noteLength_rxlen (b : Byte) : (s.noteLength b).rxlen = s.rxlen := rfl
@[simp] theorem State.noteLength_cksum (b : Byte) : (s.noteLength b).cksum = s.cksum := rfl
@[simp] theorem State.noteLength_rxck (b : Byte) : (s.noteLength b).rxck = s.rxck := rfl
@[simp] theorem State.noteLength_framelen (b : Byte) : (s.noteLength b).framelen = s.framelen := rfl
@[simp] theorem State.noteLength_rxcount (b : Byte) : (s.noteLength b).rxcount = s.rxcount := rfl
@[simp] theorem State.noteLength_draincnt (b : Byte) : (s.noteLength b).draincnt = s.draincnt := rfl
@[simp] theorem State.noteLength_mem (b : Byte) : (s.noteLength b).mem = s.mem := rfl
@[simp] theorem State.noteLength_phase (b : Byte) : (s.noteLength b).phase = s.phase := rfl
@[simp] theorem State.noteLength_drainNext (b : Byte) : (s.noteLength b).drainNext = s.drainNext := rfl
@[simp] theorem State.noteLength_replyDue (b : Byte) : (s.noteLength b).replyDue = s.replyDue := rfl
@[simp] theorem State.noteLength_txIndex (b : Byte) : (s.noteLength b).txIndex = s.txIndex := rfl
@[simp] theorem State.noteLength_t0 (b : Byte) : (s.noteLength b).t0 = s.t0 := rfl
@[simp] theorem State.noteLength_budget (b : Byte) : (s.noteLength b).budget = s.budget := rfl
@[simp] theorem State.noteLength_rxq (b : Byte) : (s.noteLength b).rxq = s.rxq := rfl
@[simp] theorem State.noteLength_txq (b : Byte) : (s.noteLength b).txq = s.txq := rfl
@[simp] theorem State.noteLength_now (b : Byte) : (s.noteLength b).now = s.now := rfl
@[simp] theorem State.noteLength_rst (b : Byte) : (s.noteLength b).rst = s.rst := rfl
@[simp] theorem State.noteLength_params (b : Byte) : (s.noteLength b).params = s.params := rfl
@[simp] theorem State.noteLength_rdata (b : Byte) : (s.noteLength b).rdata = s.rdata := rfl
@[simp] theorem State.noteLength_ovrSeen (b : Byte) : (s.noteLength b).ovrSeen = s.ovrSeen := rfl
@[simp] theorem State.noteLength_accerrSeen (b : Byte) : (s.noteLength b).accerrSeen = s.accerrSeen := rfl
@[simp] theorem State.noteLength_agenda (b : Byte) : (s.noteLength b).agenda = s.agenda := rfl
@[simp] theorem State.noteLength_draws (b : Byte) : (s.noteLength b).draws = s.draws := rfl

/-! ## answer -/

@[simp] theorem State.answer_ctrl (v : Word) : (s.answer v).ctrl = s.ctrl := rfl
@[simp] theorem State.answer_result (v : Word) : (s.answer v).result = s.result := rfl
@[simp] theorem State.answer_trunc (v : Word) : (s.answer v).trunc = s.trunc := rfl
@[simp] theorem State.answer_ovr (v : Word) : (s.answer v).ovr = s.ovr := rfl
@[simp] theorem State.answer_accerr (v : Word) : (s.answer v).accerr = s.accerr := rfl
@[simp] theorem State.answer_txlen (v : Word) : (s.answer v).txlen = s.txlen := rfl
@[simp] theorem State.answer_rxcap (v : Word) : (s.answer v).rxcap = s.rxcap := rfl
@[simp] theorem State.answer_rxlen (v : Word) : (s.answer v).rxlen = s.rxlen := rfl
@[simp] theorem State.answer_cksum (v : Word) : (s.answer v).cksum = s.cksum := rfl
@[simp] theorem State.answer_rxck (v : Word) : (s.answer v).rxck = s.rxck := rfl
@[simp] theorem State.answer_framelen (v : Word) : (s.answer v).framelen = s.framelen := rfl
@[simp] theorem State.answer_rxcount (v : Word) : (s.answer v).rxcount = s.rxcount := rfl
@[simp] theorem State.answer_draincnt (v : Word) : (s.answer v).draincnt = s.draincnt := rfl
@[simp] theorem State.answer_mem (v : Word) : (s.answer v).mem = s.mem := rfl
@[simp] theorem State.answer_phase (v : Word) : (s.answer v).phase = s.phase := rfl
@[simp] theorem State.answer_drainNext (v : Word) : (s.answer v).drainNext = s.drainNext := rfl
@[simp] theorem State.answer_replyDue (v : Word) : (s.answer v).replyDue = s.replyDue := rfl
@[simp] theorem State.answer_txIndex (v : Word) : (s.answer v).txIndex = s.txIndex := rfl
@[simp] theorem State.answer_t0 (v : Word) : (s.answer v).t0 = s.t0 := rfl
@[simp] theorem State.answer_budget (v : Word) : (s.answer v).budget = s.budget := rfl
@[simp] theorem State.answer_rxq (v : Word) : (s.answer v).rxq = s.rxq := rfl
@[simp] theorem State.answer_txq (v : Word) : (s.answer v).txq = s.txq := rfl
@[simp] theorem State.answer_now (v : Word) : (s.answer v).now = s.now := rfl
@[simp] theorem State.answer_rst (v : Word) : (s.answer v).rst = s.rst := rfl
@[simp] theorem State.answer_params (v : Word) : (s.answer v).params = s.params := rfl
@[simp] theorem State.answer_rdata (v : Word) : (s.answer v).rdata = v := rfl
@[simp] theorem State.answer_ovrSeen (v : Word) : (s.answer v).ovrSeen = s.ovrSeen := rfl
@[simp] theorem State.answer_accerrSeen (v : Word) : (s.answer v).accerrSeen = s.accerrSeen := rfl
@[simp] theorem State.answer_agenda (v : Word) : (s.answer v).agenda = s.agenda := rfl
@[simp] theorem State.answer_draws (v : Word) : (s.answer v).draws = if s.busy then s.draws + 1 else s.draws := rfl

/-! ## framerReset -/

@[simp] theorem State.framerReset_ctrl : s.framerReset.ctrl = 0 := rfl
@[simp] theorem State.framerReset_result : s.framerReset.result = .none := rfl
@[simp] theorem State.framerReset_trunc : s.framerReset.trunc = false := rfl
@[simp] theorem State.framerReset_ovr : s.framerReset.ovr = false := rfl
@[simp] theorem State.framerReset_accerr : s.framerReset.accerr = false := rfl
@[simp] theorem State.framerReset_txlen : s.framerReset.txlen = 0 := rfl
@[simp] theorem State.framerReset_rxcap : s.framerReset.rxcap = 0 := rfl
@[simp] theorem State.framerReset_rxlen : s.framerReset.rxlen = 0 := rfl
@[simp] theorem State.framerReset_cksum : s.framerReset.cksum = 0 := rfl
@[simp] theorem State.framerReset_rxck : s.framerReset.rxck = 0 := rfl
@[simp] theorem State.framerReset_framelen : s.framerReset.framelen = 0 := rfl
@[simp] theorem State.framerReset_rxcount : s.framerReset.rxcount = 0 := rfl
@[simp] theorem State.framerReset_draincnt : s.framerReset.draincnt = 0 := rfl
@[simp] theorem State.framerReset_mem : s.framerReset.mem = [] := rfl
@[simp] theorem State.framerReset_phase : s.framerReset.phase = .idle := rfl
@[simp] theorem State.framerReset_drainNext : s.framerReset.drainNext = .finish := rfl
@[simp] theorem State.framerReset_replyDue : s.framerReset.replyDue = false := rfl
@[simp] theorem State.framerReset_txIndex : s.framerReset.txIndex = 0 := rfl
@[simp] theorem State.framerReset_t0 : s.framerReset.t0 = Config.freeTime s.draws := rfl
@[simp] theorem State.framerReset_budget : s.framerReset.budget = 0 := rfl
@[simp] theorem State.framerReset_rxq : s.framerReset.rxq = s.rxq := rfl
@[simp] theorem State.framerReset_txq : s.framerReset.txq = s.txq := rfl
@[simp] theorem State.framerReset_now : s.framerReset.now = s.now := rfl
@[simp] theorem State.framerReset_rst : s.framerReset.rst = s.rst := rfl
@[simp] theorem State.framerReset_params : s.framerReset.params = s.params := rfl
@[simp] theorem State.framerReset_rdata : s.framerReset.rdata = s.rdata := rfl
@[simp] theorem State.framerReset_ovrSeen : s.framerReset.ovrSeen = s.ovrSeen := rfl
@[simp] theorem State.framerReset_accerrSeen : s.framerReset.accerrSeen = s.accerrSeen := rfl
@[simp] theorem State.framerReset_agenda : s.framerReset.agenda = s.agenda := rfl
@[simp] theorem State.framerReset_draws : s.framerReset.draws = s.draws + 1 := rfl

/-! ## BUSY -/

theorem State.busy_iff : s.busy = true ↔ s.phase ≠ .idle := by simp [State.busy]

theorem State.busy_false_iff : s.busy = false ↔ s.phase = .idle := by simp [State.busy]

@[simp] theorem State.accept_busy (w : Word) : (s.accept w).busy = true := by simp [State.busy]

@[simp] theorem State.raiseResult_busy (c : OpResult) : (s.raiseResult c).busy = false := by simp [State.busy]

@[simp] theorem State.framerReset_busy : s.framerReset.busy = false := by simp [State.busy]

end Sys2Proof.Machine
end

