-- ==== Sys2Proof/Laws/Memory.lean ====
section
/-! SUPPORT. Buffer memory: read after write, read after clear, and every memory operation keeps the canonical
form; the same for the buffers of the window. -/

namespace Sys2Proof.Machine

/-! ## Reading -/

theorem Memory.read_cons (a : Nat) (b : Byte) (m : Memory) (x : Nat) (h : ∀ c ∈ m, a < c.1) :
    (Memory.cons a b m).read x = if x = a then b else m.read x := by
  have fresh : ∀ m' : Memory, (∀ c ∈ m', a < c.1) → m'.read a = Memory.unlisted := by
    intro m'
    induction m' with
    | nil => intro _; rfl
    | cons c m' ih =>
      intro hm
      have := hm c (by simp)
      have ih := ih fun d hd => hm d (by simp [hd])
      simp only [Memory.read]
      rw [if_neg (by omega), ih]
  unfold Memory.cons
  split
  · split
    · subst x; rw [fresh m h]; simp_all
    · rfl
  · rfl

theorem Memory.wf_cons_iff (c : Host.Cell) (m : Memory) :
    Memory.wf (c :: m) = true ↔ c.2 ≠ Memory.unlisted ∧ (∀ d ∈ m, c.1 < d.1) ∧ Memory.wf m = true := by
  obtain ⟨a, b⟩ := c
  simp [Memory.wf, and_assoc]

/-- Every cell a write leaves was there before, or is the one written. -/
theorem Memory.mem_write {m : Memory} {x : Nat} {v : Byte} {c : Host.Cell} (h : c ∈ m.write x v) :
    c ∈ m ∨ c = (x, v) := by
  induction m with
  | nil => unfold Memory.write Memory.cons at h; split at h <;> simp_all
  | cons d m ih =>
    obtain ⟨a, b⟩ := d
    simp only [Memory.write, Memory.cons] at h
    split at h
    · split at h
      · simp_all
      · simp_all; tauto
    · split at h
      · split at h <;> simp_all; tauto
      · rcases List.mem_cons.mp h with h | h
        · simp [h]
        · rcases ih h with h | h <;> simp [h]

/-- A read after a write: the value written at its address, the old value elsewhere. -/
theorem Memory.read_write {m : Memory} (hm : m.wf = true) (x y : Nat) (v : Byte) :
    (m.write x v).read y = if y = x then v else m.read y := by
  induction m with
  | nil => exact Memory.read_cons x v [] y (by simp)
  | cons c m ih =>
    obtain ⟨a, b⟩ := c
    obtain ⟨_, hlt, hwf⟩ := (Memory.wf_cons_iff _ _).mp hm
    simp only [Memory.write]
    split
    · apply Memory.read_cons
      intro c hc
      rcases List.mem_cons.mp hc with rfl | hc
      · assumption
      · have := hlt c hc; simp only at this; omega
    · split
      · subst x
        rw [Memory.read_cons _ _ _ _ hlt]
        simp only [Memory.read]
        split <;> rfl
      · simp only [Memory.read, ih hwf]
        split
        · rw [if_neg (by omega)]
        · rfl

/-- A read after a clear: the reset content inside, the old value outside. -/
theorem Memory.read_clear (m : Memory) (lo hi y : Nat) :
    (m.clear lo hi).read y = if lo ≤ y ∧ y < hi then Memory.unlisted else m.read y := by
  induction m with
  | nil => simp [Memory.clear, Memory.read]
  | cons c m ih =>
    obtain ⟨a, b⟩ := c
    unfold Memory.clear at ih ⊢
    by_cases ha : a < lo ∨ hi ≤ a
    · rw [List.filter_cons_of_pos (by simpa using ha)]
      simp only [Memory.read, ih]
      split
      · subst y; rw [if_neg (by omega)]
      · rfl
    · rw [List.filter_cons_of_neg (by simpa using ha), ih]
      simp only [Memory.read]
      by_cases hy : y = a
      · subst y; rw [if_pos (by omega), if_pos (by omega)]
      · simp [hy]

/-! ## The canonical form -/

theorem Memory.wf_write {m : Memory} (hm : m.wf = true) (x : Nat) (v : Byte) : (m.write x v).wf = true := by
  have wf_cons : ∀ m' : Memory, (∀ c ∈ m', x < c.1) → m'.wf = true → (Memory.cons x v m').wf = true := by
    intro m' h h'
    unfold Memory.cons
    split
    · exact h'
    · exact (Memory.wf_cons_iff _ _).mpr ⟨‹_›, h, h'⟩
  induction m with
  | nil => exact wf_cons [] (by simp) rfl
  | cons c m ih =>
    obtain ⟨a, b⟩ := c
    have hc := (Memory.wf_cons_iff _ _).mp hm
    obtain ⟨hb, hlt, hwf⟩ := hc
    simp only [Memory.write]
    split
    · refine wf_cons _ (fun c hc => ?_) hm
      rcases List.mem_cons.mp hc with rfl | hc
      · assumption
      · have := hlt c hc; simp only at this; omega
    · split
      · subst x; exact wf_cons m hlt hwf
      · refine (Memory.wf_cons_iff _ _).mpr ⟨hb, fun d hd => ?_, ih hwf⟩
        rcases Memory.mem_write hd with hd | rfl
        · exact hlt d hd
        · simp only; omega

theorem Memory.wf_clear {m : Memory} (hm : m.wf = true) (lo hi : Nat) : (m.clear lo hi).wf = true := by
  induction m with
  | nil => rfl
  | cons c m ih =>
    obtain ⟨hb, hlt, hwf⟩ := (Memory.wf_cons_iff _ _).mp hm
    have ih := ih hwf
    unfold Memory.clear at ih ⊢
    rw [List.filter_cons]
    split
    · exact (Memory.wf_cons_iff _ _).mpr ⟨hb, fun d hd => hlt d (List.mem_filter.mp hd).1, ih⟩
    · exact ih

/-! ## Buffers -/

/-- Where two entries of the window meet: nowhere but in themselves (rule R22). -/
theorem Buf.addr_inj {b c : Buf} {i j : Nat} (hi : i < b.size) (hj : j < c.size)
    (h : b.addr i = c.addr j) : b = c ∧ i = j := by
  cases b <;> cases c <;> simp [Buf.addr, Buf.base, Buf.size] at * <;> omega

theorem State.readBuf_of_mem_eq {s t : State} (h : s.mem = t.mem) (b : Buf) (i : Nat) :
    s.readBuf b i = t.readBuf b i := by
  simp [State.readBuf, h]

/-- An entry outside its buffer reads as 0. -/
theorem State.readBuf_of_size_le (s : State) {b : Buf} {i : Nat} (h : b.size ≤ i) : s.readBuf b i = 0 := by
  simp [State.readBuf, Nat.not_lt.mpr h, Memory.unlisted]

theorem State.readBuf_writeBuf {s : State} (hm : s.mem.wf = true) (b c : Buf) (i j : Nat) (v : Byte) :
    (s.writeBuf b i v).readBuf c j = if c = b ∧ j = i ∧ i < b.size then v else s.readBuf c j := by
  unfold State.writeBuf
  split
  · rename_i hi
    simp only [State.readBuf, Memory.read_write hm]
    by_cases hj : j < c.size
    · by_cases h : c.addr j = b.addr i
      · obtain ⟨rfl, rfl⟩ := Buf.addr_inj hj hi h
        simp [hi]
      · have : ¬(c = b ∧ j = i) := by rintro ⟨rfl, rfl⟩; exact h rfl
        simp [h, hj]; tauto
    · have : ¬(c = b ∧ j = i ∧ i < b.size) := by rintro ⟨rfl, rfl, _⟩; exact hj hi
      simp [hj, this]
  · rename_i hi
    simp [hi]

theorem State.readBuf_clearBuf (s : State) (b c : Buf) (i j : Nat) (hi : i ≤ b.size) :
    (s.clearBuf b i).readBuf c j = if c = b ∧ i ≤ j then 0 else s.readBuf c j := by
  simp only [State.clearBuf, State.readBuf, Memory.read_clear]
  by_cases hj : j < c.size
  · have key : (b.addr i ≤ c.addr j ∧ c.addr j < b.addr b.size) ↔ (c = b ∧ i ≤ j) := by
      cases b <;> cases c <;> simp [Buf.addr, Buf.base, Buf.size] at * <;> omega
    simp only [key, hj, if_true]
    rfl
  · simp only [hj, if_false]
    split <;> rfl

theorem State.writeBuf_wf {s : State} (hm : s.mem.wf = true) (b : Buf) (i : Nat) (v : Byte) :
    (s.writeBuf b i v).mem.wf = true := by
  unfold State.writeBuf
  split
  · exact Memory.wf_write hm _ _
  · exact hm

theorem State.clearBuf_wf {s : State} (hm : s.mem.wf = true) (b : Buf) (i : Nat) :
    (s.clearBuf b i).mem.wf = true := Memory.wf_clear hm _ _

/-- A buffer's operations leave every byte outside it. -/
theorem State.writeBuf_sameOutside {s : State} (hm : s.mem.wf = true) (b : Buf) (i : Nat) (v : Byte) :
    SameOutside b s (s.writeBuf b i v) := by
  intro a ha
  unfold State.writeBuf
  split
  · rename_i hi
    simp only [Memory.read_write hm, Buf.addr] at *
    rw [if_neg (by omega)]
  · rfl

theorem State.clearBuf_sameOutside (s : State) (b : Buf) (i : Nat) : SameOutside b s (s.clearBuf b i) := by
  intro a ha
  simp only [State.clearBuf, Memory.read_clear, Buf.addr] at *
  rw [if_neg (by omega)]

theorem SameOutside.trans {b : Buf} {s t u : State} (h : SameOutside b s t) (k : SameOutside b t u) :
    SameOutside b s u := fun a ha => (k a ha).trans (h a ha)

/-- Zeroing RXBUF. -/
theorem State.clearBuf_rxbufZeroed (s : State) : RxbufZeroed s (s.clearBuf .rx 0) :=
  ⟨fun j => by simp [State.readBuf_clearBuf], s.clearBuf_sameOutside .rx 0⟩

/-- Buffer operations list buffer entries alone. -/
theorem State.writeBuf_memOk {s : State} (h : s.MemOk) (b : Buf) (i : Nat) (v : Byte) :
    (s.writeBuf b i v).MemOk := by
  refine ⟨State.writeBuf_wf h.1 b i v, fun c hc => ?_⟩
  unfold State.writeBuf at hc
  split at hc
  · rename_i hi
    rcases Memory.mem_write hc with hc | rfl
    · exact h.2 c hc
    · cases b <;> simp [isEntryAddr, Buf.addr, Buf.base, Buf.size] at * <;> omega
  · exact h.2 c hc

theorem State.clearBuf_memOk {s : State} (h : s.MemOk) (b : Buf) (i : Nat) : (s.clearBuf b i).MemOk :=
  ⟨State.clearBuf_wf h.1 b i, fun c hc => h.2 c (List.mem_filter.mp hc).1⟩

end Sys2Proof.Machine
end

