-- ==== Sys2Proof/Laws/Ops.lean ====
section
/-! SUPPORT. One lemma per shared operation that says all it does: the checksum, the poll, the link read, the frame
encoder. -/

namespace Sys2Proof.Machine

/-! ## Checksum -/

theorem ck_nil : ck [] = 0 := rfl

theorem ck_cons (b : Byte) (l : List Byte) : ck (b :: l) = b + ck l := by
  apply BitVec.eq_of_toNat_eq
  simp [ck, BitVec.toNat_add]

theorem ck_append (l r : List Byte) : ck (l ++ r) = ck l + ck r := by
  induction l with
  | nil => simp [ck_nil]
  | cons b l ih => simp [ck_cons, ih, BitVec.add_assoc]

/-! ## Wire frames -/

@[simp] theorem frameBody_length (m c : Byte) (p : List Byte) : (frameBody m c p).length = p.length + 3 := by
  simp [frameBody]

@[simp] theorem frameOf_length (m c : Byte) (p : List Byte) : (frameOf m c p).length = p.length + 4 := by
  simp [frameOf]

/-! ## Poll and link -/

theorem State.poll_available_iff (s : State) : s.poll = .available ↔ s.rxq ≠ [] := by
  unfold State.poll
  split
  · rename_i h; simpa using List.length_pos_iff.mp h
  · rename_i h; split <;> simp_all

theorem State.poll_timeout_iff (s : State) :
    s.poll = .timeout ↔ s.rxq = [] ∧ s.budget.toNat < s.elapsed.toNat := by
  unfold State.poll
  by_cases h : s.rxq = [] <;> simp [h, List.length_pos_iff]

theorem State.poll_pending_iff (s : State) :
    s.poll = .pending ↔ s.rxq = [] ∧ s.elapsed.toNat ≤ s.budget.toNat := by
  unfold State.poll
  by_cases h : s.rxq = [] <;> simp [h, List.length_pos_iff]

theorem State.linkRead_cons {s : State} {b : Byte} {q : List Byte} (h : s.rxq = b :: q) :
    s.linkRead = some (b, { s with rxq := q }) := by
  simp [State.linkRead, h]

/-! ## Frame encoder -/

/-- Two states that differ in buffer memory and CKSUM alone. -/
def State.SameButSum (s t : State) : Prop := t = { s with mem := t.mem, cksum := t.cksum }

theorem State.SameButSum.rfl (s : State) : s.SameButSum s := by cases s; simp [SameButSum]

theorem State.SameButSum.trans {s t u : State} (h : s.SameButSum t) (k : t.SameButSum u) : s.SameButSum u := by
  unfold SameButSum at *
  rw [h] at k
  exact k

theorem State.putFrame_same (s : State) (j : Nat) (b : Byte) : s.SameButSum (s.putFrame j b) := by
  unfold SameButSum State.putFrame State.writeBuf State.ckAdd
  split <;> rfl

theorem State.putPayload_same (p : List Byte) (j : Nat) (s : State) : s.SameButSum (putPayload p j s) := by
  induction p generalizing j s with
  | nil => exact .rfl s
  | cons b p ih => exact (s.putFrame_same j b).trans (ih _ _)

theorem State.putFrame_memOk {s : State} (h : s.MemOk) (j : Nat) (b : Byte) : (s.putFrame j b).MemOk :=
  State.writeBuf_memOk h .frame j b

theorem State.putPayload_memOk (p : List Byte) (j : Nat) {s : State} (h : s.MemOk) :
    (putPayload p j s).MemOk := by
  induction p generalizing j s with
  | nil => exact h
  | cons b p ih => exact ih _ (State.putFrame_memOk h j b)

theorem State.putFrame_wf {s : State} (h : s.mem.wf = true) (j : Nat) (b : Byte) :
    (s.putFrame j b).mem.wf = true := State.writeBuf_wf h .frame j b

theorem State.readBuf_putFrame {s : State} (h : s.mem.wf = true) (c : Buf) (j k : Nat) (b : Byte) :
    (s.putFrame j b).readBuf c k = if c = .frame ∧ k = j ∧ j < 259 then b else s.readBuf c k := by
  exact State.readBuf_writeBuf h .frame c j k b

@[simp] theorem State.cksum_putFrame (s : State) (j : Nat) (b : Byte) :
    (s.putFrame j b).cksum = s.cksum + b := by
  simp [State.putFrame]

theorem State.putPayload_wf (p : List Byte) (j : Nat) {s : State} (h : s.mem.wf = true) :
    (putPayload p j s).mem.wf = true := by
  induction p generalizing j s with
  | nil => exact h
  | cons b p ih => exact ih _ (State.putFrame_wf h j b)

theorem State.cksum_putPayload (p : List Byte) (j : Nat) (s : State) :
    (putPayload p j s).cksum = s.cksum + ck p := by
  induction p generalizing j s with
  | nil => simp [putPayload, ck_nil]
  | cons b p ih => simp [putPayload, ih, ck_cons, BitVec.add_assoc]

theorem State.readBuf_putPayload (p : List Byte) (j : Nat) {s : State} (h : s.mem.wf = true)
    (hj : j + p.length ≤ 259) (c : Buf) (k : Nat) :
    (putPayload p j s).readBuf c k =
      if c = .frame ∧ j ≤ k ∧ k < j + p.length then p.getD (k - j) 0 else s.readBuf c k := by
  induction p generalizing j s with
  | nil => simp [putPayload, show ¬ (j ≤ k ∧ k < j) by omega]
  | cons b p ih =>
    simp only [List.length_cons] at hj
    rw [putPayload, ih (j + 1) (State.putFrame_wf h j b) (by omega), State.readBuf_putFrame h]
    by_cases hc : c = .frame
    · subst hc
      by_cases hk : k = j
      · subst hk; simp [show k < 259 by omega]
      · by_cases hin : j + 1 ≤ k ∧ k < j + 1 + p.length
        · rw [if_pos ⟨rfl, hin⟩, if_pos ⟨rfl, by omega, by simp only [List.length_cons]; omega⟩]
          rw [show k - j = (k - (j + 1)) + 1 by omega]; rfl
        · rw [if_neg (by tauto), if_neg (by tauto), if_neg]
          simp only [List.length_cons]; omega
    · simp [hc]

theorem State.putPayload_sameOutside (p : List Byte) (j : Nat) {s : State} (h : s.mem.wf = true) :
    SameOutside .frame s (putPayload p j s) := by
  induction p generalizing j s with
  | nil => exact fun _ _ => rfl
  | cons b p ih =>
    exact (State.writeBuf_sameOutside h .frame j b).trans (ih (j + 1) (State.putFrame_wf h j b))

/-- The encoder leaves every byte of memory outside FRAME (rule R140). -/
theorem State.encodeFrame_sameOutside {s : State} (h : s.mem.wf = true) (cmd : Byte) (p : List Byte) :
    SameOutside .frame s (s.encodeFrame cmd p) := by
  have wf0 : s.ckInit.mem.wf = true := h
  have wf1 := State.putFrame_wf wf0 0 s.params.marker
  have wf2 := State.putFrame_wf wf1 1 cmd
  have wf3 := State.putFrame_wf wf2 2 (BitVec.ofNat 8 p.length)
  have s1 : SameOutside .frame s (s.putHeader cmd p.length) :=
    (State.writeBuf_sameOutside wf0 .frame _ _).trans
      ((State.writeBuf_sameOutside wf1 .frame _ _).trans (State.writeBuf_sameOutside wf2 .frame _ _))
  exact (s1.trans (State.putPayload_sameOutside p 3 wf3)).trans
    ((State.writeBuf_sameOutside (State.putPayload_wf p 3 wf3) .frame _ _).trans (State.clearBuf_sameOutside _ .frame _))

/-- Everything `EncodeFrame` does (rule R140): FRAME holds the frame with zeros above, CKSUM its checksum, FRAMELEN
its length; TXBUF, RXBUF and every other field are unchanged. -/
theorem State.encodeFrame_spec {s : State} (h : s.mem.wf = true) (cmd : Byte) {p : List Byte}
    (hp : p.length ≤ 255) :
    (∀ j, (s.encodeFrame cmd p).readBuf .frame j = (frameOf s.params.marker cmd p).getD j 0) ∧
    (∀ b j, b ≠ .frame → (s.encodeFrame cmd p).readBuf b j = s.readBuf b j) ∧
    (s.encodeFrame cmd p).mem.wf = true ∧
    s.encodeFrame cmd p =
      { s with
        mem := (s.encodeFrame cmd p).mem
        cksum := ck (frameBody s.params.marker cmd p)
        framelen := BitVec.ofNat 9 (p.length + 4) } := by
  have wf0 : s.ckInit.mem.wf = true := h
  have wf1 := State.putFrame_wf wf0 0 s.params.marker
  have wf2 := State.putFrame_wf wf1 1 cmd
  have wf3 := State.putFrame_wf wf2 2 (BitVec.ofNat 8 p.length)
  have wf4 : (putPayload p 3 (s.putHeader cmd p.length)).mem.wf = true := State.putPayload_wf p 3 wf3
  have sum : (putPayload p 3 (s.putHeader cmd p.length)).cksum = ck (frameBody s.params.marker cmd p) := by
    simp [State.cksum_putPayload, State.putHeader, frameBody, ck_cons, BitVec.add_assoc]
  have rd : ∀ c k, (putPayload p 3 (s.putHeader cmd p.length)).readBuf c k =
      if c = .frame ∧ k < 3 + p.length then (frameBody s.params.marker cmd p).getD k 0 else s.readBuf c k := by
    intro c k
    rw [State.putHeader, State.readBuf_putPayload p 3 wf3 (by omega), State.readBuf_putFrame wf2,
      State.readBuf_putFrame wf1, State.readBuf_putFrame wf0]
    have e0 : s.ckInit.readBuf c k = s.readBuf c k := State.readBuf_of_mem_eq (by simp) c k
    rw [e0]
    by_cases hc : c = .frame
    · subst hc
      match k with
      | 0 => simp [frameBody]
      | 1 => simp [frameBody, show 1 < 3 + p.length by omega]
      | 2 => simp [frameBody, show 2 < 3 + p.length by omega]
      | k + 3 =>
        by_cases hk : k + 3 < 3 + p.length
        · simp [frameBody, hk]
        · simp [hk]
    · simp [hc]
  have rd' : ∀ c k, (s.encodeFrame cmd p).readBuf c k =
      if c = .frame then (frameOf s.params.marker cmd p).getD k 0 else s.readBuf c k := by
    intro c k
    have e : (s.encodeFrame cmd p).readBuf c k =
        (((putPayload p 3 (s.putHeader cmd p.length)).writeBuf .frame (3 + p.length)
          (putPayload p 3 (s.putHeader cmd p.length)).cksum).clearBuf .frame (p.length + 4)).readBuf c k :=
      State.readBuf_of_mem_eq rfl c k
    rw [e, State.readBuf_clearBuf _ _ _ _ _ (by simp [Buf.size]; omega), State.readBuf_writeBuf wf4, sum, rd]
    by_cases hc : c = .frame
    · subst hc
      have hlen := frameBody_length s.params.marker cmd p
      by_cases h1 : p.length + 4 ≤ k
      · have := List.getD_eq_default (frameOf s.params.marker cmd p) (0 : Byte) (n := k) (by simpa using h1)
        simp only [this]; simp [h1]
      · by_cases h2 : k = 3 + p.length
        · subst h2
          have : (frameBody s.params.marker cmd p).length = 3 + p.length := by omega
          have hlt : 3 + p.length < Buf.size .frame := by simp only [Buf.size]; omega
          rw [if_neg (by omega), if_pos ⟨rfl, rfl, hlt⟩]
          simp [frameOf, ← this]
        · have h3 : k < 3 + p.length := by omega
          simp [h1, h2, h3, frameOf, List.getElem?_append_left, hlen, show k < p.length + 3 by omega]
    · simp [hc]
  refine ⟨fun j => by simp [rd'], fun b j hb => by simp [rd', hb], ?_, ?_⟩
  · exact State.clearBuf_wf (State.writeBuf_wf wf4 _ _ _) _ _
  · have same : s.SameButSum (putPayload p 3 (s.putHeader cmd p.length)) := by
      refine State.SameButSum.trans ?_ (State.putPayload_same _ _ _)
      refine State.SameButSum.trans (t := s.ckInit) rfl ?_
      exact ((State.putFrame_same _ _ _).trans (State.putFrame_same _ _ _)).trans (State.putFrame_same _ _ _)
    unfold State.encodeFrame State.closeFrame State.clearBuf State.writeBuf
    unfold State.SameButSum at same
    generalize hu : putPayload p 3 (s.putHeader cmd p.length) = u at *
    split <;> (rw [← sum]; conv_lhs => rw [same])

theorem State.encodeFrame_memOk {s : State} (h : s.MemOk) (cmd : Byte) (p : List Byte) :
    (s.encodeFrame cmd p).MemOk := by
  have h0 : s.ckInit.MemOk := h
  have h3 : (s.putHeader cmd p.length).MemOk :=
    State.putFrame_memOk (State.putFrame_memOk (State.putFrame_memOk h0 _ _) _ _) _ _
  exact State.clearBuf_memOk (State.writeBuf_memOk (State.putPayload_memOk p 3 h3) _ _ _) _ _

/-- The encoder meets the terms claims are stated in. -/
theorem State.encodeFrame_encodedAs {s : State} (h : s.mem.wf = true) (cmd : Byte) {p : List Byte}
    (hp : p.length ≤ 255) : EncodedAs s (s.encodeFrame cmd p) cmd p := by
  obtain ⟨hf, _, _, he⟩ := State.encodeFrame_spec h cmd hp
  refine ⟨hf, State.encodeFrame_sameOutside h cmd p, ?_, ?_⟩
  · rw [he]
  · rw [he]; simp only [BitVec.toNat_ofNat]; omega

/-- Only memory, CKSUM and FRAMELEN count for `EncodedAs`. -/
theorem EncodedAs.congr {s t u : State} {cmd : Byte} {p : List Byte} (h : EncodedAs s t cmd p)
    (hm : u.mem = t.mem) (hc : u.cksum = t.cksum) (hf : u.framelen = t.framelen) : EncodedAs s u cmd p :=
  ⟨fun j => (State.readBuf_of_mem_eq hm _ _).trans (h.1 j), fun a ha => (by rw [hm]; exact h.2.1 a ha),
    hc.trans h.2.2.1, by rw [hf]; exact h.2.2.2⟩

/-- The encoder writes memory, CKSUM and FRAMELEN, whatever the payload's length. -/
theorem State.encodeFrame_fields (s : State) (cmd : Byte) (p : List Byte) :
    ∃ m c f, s.encodeFrame cmd p = { s with mem := m, cksum := c, framelen := f } := by
  have same : s.SameButSum (putPayload p 3 (s.putHeader cmd p.length)) := by
    refine State.SameButSum.trans ?_ (State.putPayload_same _ _ _)
    refine State.SameButSum.trans (t := s.ckInit) (by rfl) ?_
    exact ((State.putFrame_same _ _ _).trans (State.putFrame_same _ _ _)).trans (State.putFrame_same _ _ _)
  unfold State.encodeFrame State.closeFrame State.clearBuf State.writeBuf
  unfold State.SameButSum at same
  generalize putPayload p 3 (s.putHeader cmd p.length) = u at *
  rw [same]
  split <;> exact ⟨_, _, _, rfl⟩

/-- TXBUF gives at most 255 bytes (rule R147). -/
theorem State.payloadBuf_length (s : State) : s.payloadBuf.length = s.txlen.toNat := by
  simp [State.payloadBuf]

end Sys2Proof.Machine
end

