-- ==== Sys2Proof/Laws/MicroSteps.lean ====
section
/-! SUPPORT. One lemma per engine micro-step that says all it can do: its equation, by what the poll finds, and the
record it leaves. -/

namespace Sys2Proof.Machine

variable (s : State)

/-! ## What the micro-steps leave -/

theorem State.drainEnter_eq (next : DrainNext) :
    s.drainEnter next =
      { s with t0 := s.now, budget := s.params.tDrain, draincnt := 0, drainNext := next, phase := .drain } := rfl

theorem State.drainCount_eq :
    s.drainCount = { s with t0 := s.now, budget := s.params.tDrain, draincnt := s.draincnt + 1 } := rfl

theorem State.drainDone_eq :
    s.drainDone = match s.drainNext with
      | .finish => { s with result := .ok, phase := .idle, replyDue := false, drainNext := .finish }
      | .transmit => { s with txIndex := 0, phase := .tx } := by
  unfold State.drainDone; split <;> simp_all [State.raiseResult]

theorem State.waitEnter_eq (ms : BitVec 16) :
    s.waitEnter ms = { s with t0 := s.now, budget := ms, phase := .wb } := rfl

theorem State.txByte_eq :
    s.txByte = { s with txq := s.txq ++ [s.readBuf .frame s.txIndex], txIndex := s.txIndex + 1 } := rfl

theorem State.receiveEnter_eq :
    s.receiveEnter =
      { s with
        mem := s.mem.clear 0x1000 0x13FC, cksum := 0, t0 := s.now, budget := s.params.tFirst
        rxlen := 0, rxcount := 0, rxck := 0, phase := .rx } := rfl

theorem State.failReceive_eq (c : OpResult) :
    s.failReceive c =
      { s with
        mem := s.mem.clear 0x1000 0x13FC
        result := c, phase := .idle, replyDue := false, drainNext := .finish } := rfl

theorem State.takeHead_eq (b : Byte) :
    s.takeHead b = { s with cksum := s.cksum + b, t0 := s.now, budget := s.params.tByte } := rfl

theorem State.takeLength_eq (b : Byte) :
    s.takeLength b =
      { s with
        rxlen := b, cksum := s.cksum + b, trunc := s.trunc || decide (s.rxcap.toNat < b.toNat)
        t0 := s.now, budget := s.params.tByte } := rfl

theorem State.takePayload_eq (j : Nat) (b : Byte) :
    s.takePayload j b =
      { s with
        mem := (if j < s.rxcap.toNat then s.writeBuf .rx j b else s).mem
        cksum := s.cksum + b, t0 := s.now, budget := s.params.tByte } := by
  unfold State.takePayload State.awaitByte
  by_cases h : j < s.rxcap.toNat
  · simp only [h, if_true]; unfold State.writeBuf; split <;> rfl
  · simp only [h, if_false]; rfl

/-- Where a byte goes by its index (rule R210). -/
theorem State.takeByte_cases (b : Byte) :
    (s.rxcount.toNat ≤ 1 ∧ s.takeByte b = { s with rxcount := s.rxcount + 1 }.takeHead b) ∨
    (s.rxcount.toNat = 2 ∧ s.takeByte b = { s with rxcount := s.rxcount + 1 }.takeLength b) ∨
    (3 ≤ s.rxcount.toNat ∧ s.rxcount.toNat < 3 + s.rxlen.toNat ∧
      s.takeByte b = { s with rxcount := s.rxcount + 1 }.takePayload (s.rxcount.toNat - 3) b) ∨
    (3 + s.rxlen.toNat ≤ s.rxcount.toNat ∧ b = s.cksum ∧
      s.takeByte b = { s with rxcount := s.rxcount + 1, rxck := b }.raiseResult .ok) ∨
    (3 + s.rxlen.toNat ≤ s.rxcount.toNat ∧ b ≠ s.cksum ∧
      s.takeByte b = { s with rxcount := s.rxcount + 1, rxck := b }.failReceive .ckfail) := by
  unfold State.takeByte
  by_cases h1 : s.rxcount.toNat ≤ 1
  · exact .inl ⟨h1, by simp [h1]⟩
  by_cases h2 : s.rxcount.toNat = 2
  · exact .inr (.inl ⟨h2, by simp [h2]⟩)
  by_cases h3 : s.rxcount.toNat < 3 + s.rxlen.toNat
  · exact .inr (.inr (.inl ⟨by omega, h3, by simp [h1, h2, h3]⟩))
  by_cases h4 : b = s.cksum
  · exact .inr (.inr (.inr (.inl ⟨by omega, h4, by simp [h1, h2, h3, State.takeChecksum, h4]⟩)))
  · exact .inr (.inr (.inr (.inr ⟨by omega, h4, by simp [h1, h2, h3, State.takeChecksum, h4]⟩)))

/-! ## The polls: none of them stops -/

theorem State.drainPoll_eq :
    s.drainPoll = .next (match s.rxq with
      | _ :: q => { s with rxq := q }.drainCount
      | [] => if s.budget.toNat < s.elapsed.toNat then s.drainDone else s) := by
  unfold State.drainPoll State.linkRead State.poll
  cases h : s.rxq with
  | nil => by_cases ht : s.budget.toNat < s.elapsed.toNat <;> simp [ht]
  | cons b q => simp

theorem State.rxPoll_eq :
    s.rxPoll = .next (match s.rxq with
      | b :: q => { s with rxq := q }.takeByte b
      | [] => if s.budget.toNat < s.elapsed.toNat then s.failReceive .timeout else s) := by
  unfold State.rxPoll State.linkRead State.poll
  cases h : s.rxq with
  | nil => by_cases ht : s.budget.toNat < s.elapsed.toNat <;> simp [ht]
  | cons b q => simp

theorem State.waitPoll_eq :
    s.waitPoll = .next (match s.rxq with
      | _ :: _ => s.raiseResult .ok
      | [] => if s.budget.toNat < s.elapsed.toNat then s.raiseResult .timeout else s) := by
  unfold State.waitPoll State.poll
  cases h : s.rxq with
  | nil => by_cases ht : s.budget.toNat < s.elapsed.toNat <;> simp [ht]
  | cons b q => simp

theorem State.txStep_eq :
    s.txStep = .next (if s.txIndex + 1 = s.framelen.toNat then s.txByte.txDone else s.txByte) := by
  unfold State.txStep; split <;> rfl

variable {s}

/-- A pending poll changes nothing (rules R160, R180). -/
theorem State.drainPoll_pending (hq : s.rxq = []) (h : s.elapsed.toNat ≤ s.budget.toNat) : s.drainPoll = .next s := by
  rw [State.drainPoll_eq, hq]; exact congrArg _ (if_neg (Nat.not_lt.2 h))

theorem State.rxPoll_pending (hq : s.rxq = []) (h : s.elapsed.toNat ≤ s.budget.toNat) : s.rxPoll = .next s := by
  rw [State.rxPoll_eq, hq]; exact congrArg _ (if_neg (Nat.not_lt.2 h))

theorem State.drainPoll_cons {b : Byte} {q : List Byte} (hq : s.rxq = b :: q) :
    s.drainPoll = .next { s with rxq := q }.drainCount := by rw [State.drainPoll_eq, hq]

theorem State.rxPoll_cons {b : Byte} {q : List Byte} (hq : s.rxq = b :: q) :
    s.rxPoll = .next ({ s with rxq := q }.takeByte b) := by rw [State.rxPoll_eq, hq]

/-! ## Buffer memory stays well formed -/

theorem State.receiveEnter_memOk (h : s.MemOk) : s.receiveEnter.MemOk := State.clearBuf_memOk h .rx 0

theorem State.failReceive_memOk (h : s.MemOk) (c : OpResult) : (s.failReceive c).MemOk :=
  State.clearBuf_memOk h .rx 0

theorem State.takePayload_memOk (h : s.MemOk) (j : Nat) (b : Byte) : (s.takePayload j b).MemOk := by
  unfold State.takePayload
  split
  · exact State.writeBuf_memOk (s := s.ckAdd b) h .rx j b
  · exact h

theorem State.takeByte_memOk (h : s.MemOk) (b : Byte) : (s.takeByte b).MemOk := by
  have h' : { s with rxcount := s.rxcount + 1 }.MemOk := h
  obtain ⟨_, e⟩ | ⟨_, e⟩ | ⟨_, _, e⟩ | ⟨_, _, e⟩ | ⟨_, _, e⟩ := s.takeByte_cases b <;> rw [e]
  · exact h
  · exact h
  · exact State.takePayload_memOk h' _ b
  · exact h
  · exact State.failReceive_memOk (s := { s with rxcount := s.rxcount + 1, rxck := b }) h .ckfail

end Sys2Proof.Machine
end

