-- ==== Sys2Proof/Laws/Exec.lean ====
section
/-! SUPPORT. What `exec` does, said once: the micro-step of each phase, and for every next state the micro-step that
gave it. -/

namespace Sys2Proof.Machine

variable {i : Instr} {s t : State}

/-! ## By phase -/

theorem exec_of_drain (hs : s.phase = .drain) (h : .drain ∈ phasesOf i) : exec i s = s.drainPoll := by
  cases i <;> simp_all [phasesOf, exec, execTransactBuf, execTransactZ, execTransactB, execTransactH,
    execDrain, execSend, State.transactOp]

theorem exec_of_tx (hs : s.phase = .tx) (h : .tx ∈ phasesOf i) : exec i s = s.txStep := by
  cases i <;> simp_all [phasesOf, exec, execTransactBuf, execTransactZ, execTransactB, execTransactH,
    execSend, State.transactOp]

theorem exec_of_rx (hs : s.phase = .rx) (h : .rx ∈ phasesOf i) : exec i s = s.rxPoll := by
  cases i with
  | transactBuf r _ => cases r <;> simp_all [phasesOf, exec, execTransactBuf, State.transactOp]
  | transactZ r _ => cases r <;> simp_all [phasesOf, exec, execTransactZ, State.transactOp]
  | transactB r _ _ => cases r <;> simp_all [phasesOf, exec, execTransactB, State.transactOp]
  | transactH r _ _ => cases r <;> simp_all [phasesOf, exec, execTransactH, State.transactOp]
  | receive => simp_all [exec, execReceive]
  | _ => simp_all [phasesOf]

/-! ## By next state -/

theorem State.drainPoll_cases (h : s.drainPoll = .next t) :
    (∃ b q, s.rxq = b :: q ∧ t = { s with rxq := q }.drainCount) ∨
    (s.rxq = [] ∧ s.budget.toNat < s.elapsed.toNat ∧ t = s.drainDone) ∨ t = s := by
  rw [State.drainPoll_eq] at h
  cases hq : s.rxq with
  | nil =>
    by_cases hb : s.budget.toNat < s.elapsed.toNat <;> simp only [hq, hb, if_true, if_false] at h <;>
      cases h <;> simp [hb]
  | cons b q => simp only [hq] at h; cases h; exact .inl ⟨b, q, rfl, rfl⟩

theorem State.rxPoll_cases (h : s.rxPoll = .next t) :
    (∃ b q, s.rxq = b :: q ∧ t = { s with rxq := q }.takeByte b) ∨
    (s.rxq = [] ∧ s.budget.toNat < s.elapsed.toNat ∧ t = s.failReceive .timeout) ∨ t = s := by
  rw [State.rxPoll_eq] at h
  cases hq : s.rxq with
  | nil =>
    by_cases hb : s.budget.toNat < s.elapsed.toNat <;> simp only [hq, hb, if_true, if_false] at h <;>
      cases h <;> simp [hb]
  | cons b q => simp only [hq] at h; cases h; exact .inl ⟨b, q, rfl, rfl⟩

theorem State.waitPoll_cases (h : s.waitPoll = .next t) :
    (s.rxq ≠ [] ∧ t = s.raiseResult .ok) ∨
    (s.rxq = [] ∧ s.budget.toNat < s.elapsed.toNat ∧ t = s.raiseResult .timeout) ∨ t = s := by
  rw [State.waitPoll_eq] at h
  cases hq : s.rxq with
  | nil =>
    by_cases hb : s.budget.toNat < s.elapsed.toNat <;> simp only [hq, hb, if_true, if_false] at h <;>
      cases h <;> simp [hb]
  | cons b q => simp only [hq] at h; cases h; exact .inl ⟨by simp, rfl⟩

theorem State.txStep_cases (h : s.txStep = .next t) :
    (s.txIndex + 1 ≠ s.framelen.toNat ∧ t = s.txByte) ∨
    (s.txIndex + 1 = s.framelen.toNat ∧ s.replyDue = false ∧ t = s.txByte.raiseResult .ok) ∨
    (s.txIndex + 1 = s.framelen.toNat ∧ s.replyDue = true ∧ t = s.txByte.receiveEnter) := by
  rw [State.txStep_eq] at h
  by_cases he : s.txIndex + 1 = s.framelen.toNat
  · simp only [he, if_true] at h; cases h
    have hr : s.txByte.replyDue = s.replyDue := rfl
    cases hd : s.replyDue <;> rw [hd] at hr <;> simp [State.txDone, hr, he]
  · simp only [he, if_false] at h; cases h; simp [he]

theorem State.sendStart_cases (s : State) :
    (s.framelen = 0 ∧ s.sendStart = s.raiseResult .noframe) ∨
    (s.framelen ≠ 0 ∧ s.sendStart = { s with replyDue := false }.drainEnter .transmit) := by
  unfold State.sendStart; split
  · exact .inl ⟨‹_›, rfl⟩
  · exact .inr ⟨‹_›, rfl⟩

theorem State.encodeOp_cases {cmd : Byte} {p : List Byte} (h : s.encodeOp cmd p = .next t) :
    s.phase = .start ∧ t = (s.encodeFrame cmd p).raiseResult .ok := by
  unfold State.encodeOp at h
  cases hs : s.phase <;> simp only [hs] at h <;> cases h
  exact ⟨rfl, rfl⟩

theorem State.transactOp_cases {rply : Bool} {cmd : Byte} {p : List Byte}
    (h : s.transactOp rply cmd p = .next t) :
    (s.phase = .start ∧ t = s.transactStart rply cmd p) ∨ (s.phase = .drain ∧ s.drainPoll = .next t) ∨
    (s.phase = .tx ∧ s.txStep = .next t) ∨ (s.phase = .rx ∧ rply = true ∧ s.rxPoll = .next t) := by
  unfold State.transactOp at h
  cases hs : s.phase <;> simp only [hs] at h
  · cases h
  · cases h; exact .inl ⟨rfl, rfl⟩
  · exact .inr (.inl ⟨rfl, h⟩)
  · exact .inr (.inr (.inl ⟨rfl, h⟩))
  · cases rply
    · cases h
    · exact .inr (.inr (.inr ⟨rfl, rfl, h⟩))
  · cases h

/-- What the START micro-step of an operation leaves (rules R142 to R145, R161, R163, R182, R210, R231 to R235). -/
inductive StartLeaves (s : State) : Instr → State → Prop where
  | encode (cmd : Byte) (p : List Byte) (hp : p.length ≤ 255) (i : Instr) (hi : phasesOf i = [.start]) :
      StartLeaves s i ((s.encodeFrame cmd p).raiseResult .ok)
  | transact (cmd : Byte) (p : List Byte) (hp : p.length ≤ 255) (i : Instr) (hn : drainNextOf i = .transmit)
      (hi : phasesOf i = if i.expectsReply then [.start, .drain, .tx, .rx] else [.start, .drain, .tx]) :
      StartLeaves s i (s.transactStart i.expectsReply cmd p)
  | drain : StartLeaves s .drain (s.drainEnter .finish)
  | send : StartLeaves s .send s.sendStart
  | receive : StartLeaves s .receive s.receiveEnter
  | waitbyte (ms : BitVec 16) : StartLeaves s (.waitbyte ms) (s.waitEnter ms)

/-- Every next state of `exec` comes from one micro-step, in a phase the operation has (rule R41). -/
theorem exec_cases (h : exec i s = .next t) :
    (s.phase = .start ∧ StartLeaves s i t) ∨
    (s.phase = .drain ∧ .drain ∈ phasesOf i ∧ s.drainPoll = .next t) ∨
    (s.phase = .tx ∧ .tx ∈ phasesOf i ∧ s.txStep = .next t) ∨
    (s.phase = .rx ∧ .rx ∈ phasesOf i ∧ s.rxPoll = .next t) ∨
    (s.phase = .wb ∧ .wb ∈ phasesOf i ∧ s.waitPoll = .next t) := by
  have hb : s.payloadBuf.length ≤ 255 := by rw [s.payloadBuf_length]; have := s.txlen.isLt; omega
  have encode : ∀ {cmd p}, p.length ≤ 255 → phasesOf i = [.start] → s.encodeOp cmd p = .next t →
      s.phase = .start ∧ StartLeaves s i t := by
    intro cmd p hp hi h
    obtain ⟨hs, rfl⟩ := State.encodeOp_cases h
    exact ⟨hs, .encode cmd p hp i hi⟩
  have transact : ∀ {cmd p}, p.length ≤ 255 → drainNextOf i = .transmit →
      phasesOf i = (if i.expectsReply then [.start, .drain, .tx, .rx] else [.start, .drain, .tx]) →
      s.transactOp i.expectsReply cmd p = .next t →
      (s.phase = .start ∧ StartLeaves s i t) ∨ (s.phase = .drain ∧ .drain ∈ phasesOf i ∧ s.drainPoll = .next t) ∨
      (s.phase = .tx ∧ .tx ∈ phasesOf i ∧ s.txStep = .next t) ∨
      (s.phase = .rx ∧ .rx ∈ phasesOf i ∧ s.rxPoll = .next t) ∨
      (s.phase = .wb ∧ .wb ∈ phasesOf i ∧ s.waitPoll = .next t) := by
    intro cmd p hp hn hi h
    obtain ⟨hs, rfl⟩ | ⟨hs, h⟩ | ⟨hs, h⟩ | ⟨hs, hr, h⟩ := State.transactOp_cases h
    · exact .inl ⟨hs, .transact cmd p hp i hn hi⟩
    · exact .inr (.inl ⟨hs, by rw [hi]; split <;> simp, h⟩)
    · exact .inr (.inr (.inl ⟨hs, by rw [hi]; split <;> simp, h⟩))
    · exact .inr (.inr (.inr (.inl ⟨hs, by rw [hi, hr]; simp, h⟩)))
  cases i with
  | encodeBuf cmd => exact .inl (encode hb rfl h)
  | encodeZ cmd => exact .inl (encode (by simp [payloadZ]) rfl h)
  | encodeB cmd arg => exact .inl (encode (by simp [payloadB]) rfl h)
  | encodeH cmd arg => exact .inl (encode (by simp [payloadH]) rfl h)
  | transactBuf r cmd => exact transact hb rfl rfl h
  | transactZ r cmd => exact transact (by simp [payloadZ]) rfl rfl h
  | transactB r cmd arg => exact transact (by simp [payloadB]) rfl rfl h
  | transactH r cmd arg => exact transact (by simp [payloadH]) rfl rfl h
  | drain =>
    simp only [exec, execDrain] at h
    cases hs : s.phase <;> simp only [hs] at h <;> try cases h
    · exact .inl ⟨rfl, .drain⟩
    · exact .inr (.inl ⟨rfl, by simp [phasesOf], h⟩)
  | send =>
    simp only [exec, execSend] at h
    cases hs : s.phase <;> simp only [hs] at h <;> try cases h
    · exact .inl ⟨rfl, .send⟩
    · exact .inr (.inl ⟨rfl, by simp [phasesOf], h⟩)
    · exact .inr (.inr (.inl ⟨rfl, by simp [phasesOf], h⟩))
  | receive =>
    simp only [exec, execReceive] at h
    cases hs : s.phase <;> simp only [hs] at h <;> try cases h
    · exact .inl ⟨rfl, .receive⟩
    · exact .inr (.inr (.inr (.inl ⟨rfl, by simp [phasesOf], h⟩)))
  | waitbyte ms =>
    simp only [exec, execWaitbyte] at h
    cases hs : s.phase <;> simp only [hs] at h <;> try cases h
    · exact .inl ⟨rfl, .waitbyte ms⟩
    · exact .inr (.inr (.inr (.inr ⟨rfl, by simp [phasesOf], h⟩)))

end Sys2Proof.Machine
end

