-- ==== Sys2Proof/Laws/Window.lean ====
section
/-! SUPPORT. What every address of the register window names (10_state.md rule R22), both ways round. -/

namespace Sys2Proof.Machine

/-- The byte addresses of a target (rules R22, R63, R64). -/
def Target.At (a : BusAddr) : Target → Prop
  | .misaligned => a.toNat % 4 ≠ 0
  | .reserved   => isReservedAddr a = true
  | .ctrl       => a = 0x000
  | .status     => a = 0x004
  | .txlen      => a = 0x008
  | .rxcap      => a = 0x00C
  | .rxlen      => a = 0x010
  | .cksum      => a = 0x014
  | .rxck       => a = 0x018
  | .framelen   => a = 0x01C
  | .rxcount    => a = 0x020
  | .draincnt   => a = 0x024
  | .marker     => a = 0x028
  | .entry b i  => i < b.size ∧ a.toNat = b.addr i

theorem isReservedAddr_iff (a : BusAddr) :
    isReservedAddr a = true ↔ a.toNat % 4 = 0 ∧
      ((0x02C ≤ a.toNat ∧ a.toNat < 0x400) ∨ a.toNat = 0x7FC ∨
        (0xC0C ≤ a.toNat ∧ a.toNat < 0x1000) ∨ 0x13FC ≤ a.toNat) := by
  have h : (a == 0x7FC) = decide (a.toNat = 0x7FC) := by
    rw [Bool.eq_iff_iff]; simp [BitVec.toNat_eq]
  simp only [isReservedAddr, h, Bool.and_eq_true, Bool.or_eq_true, decide_eq_true_eq, beq_iff_eq]
  omega

theorem entryAt_at {a : BusAddr} {b : Buf} (h4 : a.toNat % 4 = 0) (hb : b.base ≤ a.toNat)
    (hr : b.addr b.size ≤ a.toNat → isReservedAddr a = true) : (entryAt b a.toNat).At a := by
  have hd : 4 ∣ b.base := by cases b <;> decide
  unfold entryAt
  split
  · exact ⟨‹_›, by simp only [Buf.addr]; omega⟩
  · exact hr (by simp only [Buf.addr]; omega)

theorem registerAt_of_le {k : Nat} (h : 11 ≤ k) : registerAt k = .reserved := by
  unfold registerAt; split <;> first | rfl | omega

theorem registerAt_at {a : BusAddr} (h4 : a.toNat % 4 = 0) (h : a.toNat < 0x400) :
    (registerAt (a.toNat / 4)).At a := by
  by_cases hk : a.toNat / 4 < 11
  · obtain ⟨k, e⟩ : ∃ k, k = a.toNat / 4 := ⟨_, rfl⟩
    have ha : a.toNat = 4 * k := by omega
    rw [← e] at hk ⊢
    clear e
    interval_cases k <;> exact BitVec.eq_of_toNat_eq ha
  · rw [registerAt_of_le (by omega)]
    exact (isReservedAddr_iff a).2 ⟨h4, .inl ⟨by omega, h⟩⟩

/-- What an address names is at that address. -/
theorem targetOf_at (a : BusAddr) : (targetOf a).At a := by
  have ha : a.toNat < 0x2000 := a.isLt
  simp only [targetOf]
  split
  · assumption
  · have h4 : a.toNat % 4 = 0 := by omega
    split
    · exact registerAt_at h4 ‹_›
    · split
      · exact entryAt_at (b := .tx) h4 (by simp only [Buf.base]; omega) fun h => (isReservedAddr_iff a).2
          ⟨h4, by simp only [Buf.addr, Buf.base, Buf.size] at h; omega⟩
      · split
        · exact entryAt_at (b := .frame) h4 (by simp only [Buf.base]; omega) fun h =>
            (isReservedAddr_iff a).2 ⟨h4, by simp only [Buf.addr, Buf.base, Buf.size] at h; omega⟩
        · exact entryAt_at (b := .rx) h4 (by simp only [Buf.base]; omega) fun h =>
            (isReservedAddr_iff a).2 ⟨h4, by simp only [Buf.addr, Buf.base, Buf.size] at h; omega⟩

theorem targetOf_misaligned {a : BusAddr} (h : a.toNat % 4 ≠ 0) : targetOf a = .misaligned := by
  simp [targetOf, h]

theorem targetOf_entry {a : BusAddr} {b : Buf} {i : Nat} (hi : i < b.size) (h : a.toNat = b.addr i) :
    targetOf a = .entry b i := by
  cases b <;> simp only [Buf.size, Buf.addr, Buf.base] at hi h <;>
    simp only [targetOf, entryAt, h, Buf.base, Buf.size]
  · rw [if_neg (by omega), if_neg (by omega), if_pos (by omega), if_pos (by omega)]
    rw [show (0x400 + 4 * i - 0x400) / 4 = i by omega]
  · rw [if_neg (by omega), if_neg (by omega), if_neg (by omega), if_pos (by omega), if_pos (by omega)]
    rw [show (0x800 + 4 * i - 0x800) / 4 = i by omega]
  · rw [if_neg (by omega), if_neg (by omega), if_neg (by omega), if_neg (by omega), if_pos (by omega)]
    rw [show (0x1000 + 4 * i - 0x1000) / 4 = i by omega]

theorem targetOf_reserved {a : BusAddr} (h : isReservedAddr a = true) : targetOf a = .reserved := by
  obtain ⟨h4, h⟩ := (isReservedAddr_iff a).1 h
  have k := targetOf_at a
  revert k
  cases targetOf a with
  | reserved => intro; rfl
  | misaligned => intro k; exact absurd h4 k
  | entry b i =>
    rintro ⟨hi, ha⟩
    cases b <;> simp only [Buf.size, Buf.addr, Buf.base] at hi ha <;> omega
  | _ => intro k; subst k; simp at h

/-- A host read sets ACCERR exactly where the target is misaligned or reserved (rules R61, R255). -/
theorem targetOf_bad_iff (a : BusAddr) :
    (targetOf a = .misaligned ∨ targetOf a = .reserved) ↔ (a.toNat % 4 ≠ 0 ∨ isReservedAddr a = true) := by
  constructor
  · intro h
    have k := targetOf_at a
    rcases h with h | h <;> rw [h] at k
    · exact .inl k
    · exact .inr k
  · rintro (h | h)
    · exact .inl (targetOf_misaligned h)
    · exact .inr (targetOf_reserved h)

theorem isProtectedAddr_iff (a : BusAddr) :
    isProtectedAddr a = true ↔
      a = 0x000 ∨ a = 0x008 ∨ a = 0x00C ∨ ∃ k, k < 255 ∧ a.toNat = Buf.addr .tx k := by
  simp only [isProtectedAddr, Bool.and_eq_true, Bool.or_eq_true, decide_eq_true_eq, beq_iff_eq, Buf.addr, Buf.base]
  constructor
  · rintro ⟨h4, ((h | h) | h) | h⟩
    · exact .inl h
    · exact .inr (.inl h)
    · exact .inr (.inr (.inl h))
    · exact .inr (.inr (.inr ⟨(a.toNat - 0x400) / 4, by omega, by omega⟩))
  · rintro (rfl | rfl | rfl | ⟨k, hk, h⟩)
    · decide
    · decide
    · decide
    · exact ⟨by omega, .inr (by omega)⟩

end Sys2Proof.Machine
end

