-- ==== Sys2Proof/Laws/HostPort.lean ====
section
/-! SUPPORT. One lemma per host access, per environment move and per step that says all it can do. -/

namespace Sys2Proof.Machine

variable (s : State)

/-! ## Host accesses -/

/-- A read changes the model's own fields, and ACCERR on a bad address (rule R61). -/
theorem hostRead_cases (a : BusAddr) :
    let r := s.answer (s.valueAt (targetOf a))
    (hostRead a s = r ∧ (s.rst = true ∨ targetOf a ≠ .misaligned ∧ targetOf a ≠ .reserved)) ∨
    (hostRead a s = r.accessError ∧ s.rst = false ∧
      (targetOf a = .misaligned ∨ targetOf a = .reserved)) := by
  simp only [hostRead]
  by_cases h : (targetOf a = .misaligned ∨ targetOf a = .reserved) ∧ s.rst = false
  · exact .inr ⟨by rw [if_pos h], h.2, h.1⟩
  · refine .inl ⟨by rw [if_neg h], ?_⟩
    by_cases hr : s.rst = true
    · exact .inl hr
    · right; simp only [Bool.not_eq_true] at hr; simp only [hr, and_true] at h; tauto

/-- Issue takes a legal word and rejects any other (rules R100, R230). -/
theorem State.issue_cases (w : Word) :
    (∃ i, decode w = .ok i ∧ s.issue w = s.accept w) ∨
    (∃ e, decode w = .error e ∧ s.issue w = { s with trunc := false, result := .illegal }) := by
  unfold State.issue
  cases h : decode w with
  | ok i => exact .inl ⟨i, rfl, rfl⟩
  | error e => exact .inr ⟨e, rfl, rfl⟩

/-- Everything a host write can do (rule R62). -/
theorem hostWrite_cases (a : BusAddr) (v : Word) :
    (hostWrite a v s = s ∧ s.rst = true) ∨
    (s.rst = false ∧
      (hostWrite a v s = s.accessError ∨
       hostWrite a v s = s.clearFaultBits v ∨
       (hostWrite a v s = s.overrun ∧ s.busy = true) ∨
       (s.busy = false ∧
        (hostWrite a v s = s.issue v ∨
         hostWrite a v s = s.setTxlen v ∨
         hostWrite a v s = s.setRxcap v ∨
         ∃ i, hostWrite a v s = s.setTxbuf i v)))) := by
  cases hr : s.rst with
  | true => exact .inl ⟨by simp [hostWrite, hr], rfl⟩
  | false =>
    refine .inr ⟨rfl, ?_⟩
    have hw : hostWrite a v s = s.writeAt v (targetOf a) := by simp [hostWrite, hr]
    rw [hw]
    cases targetOf a with
    | entry b i =>
      cases b with
      | tx =>
        by_cases hb : s.busy <;> simp only [State.writeAt, State.unlessBusy, hb] <;> simp
        exact .inr (.inr (.inr (.inr (.inr ⟨i, rfl⟩))))
      | frame => exact .inl rfl
      | rx => exact .inl rfl
    | ctrl => by_cases hb : s.busy <;> simp [State.writeAt, State.unlessBusy, hb]
    | txlen => by_cases hb : s.busy <;> simp [State.writeAt, State.unlessBusy, hb]
    | rxcap => by_cases hb : s.busy <;> simp [State.writeAt, State.unlessBusy, hb]
    | status => exact .inr (.inl rfl)
    | _ => exact .inl rfl

/-! ## Steps -/

theorem step_of_agenda {m : Move} {rest : List Move} (h : s.agenda = m :: rest) :
    step s = takeMove m { s with agenda := rest } := by
  simp [step, h]

theorem step_of_empty (h : s.agenda = []) :
    step s = takeMove (Config.freeMove s.draws) { s with draws := s.draws + 1 } := by
  simp [step, h]

/-- A step is a move of some agent on a state that differs in the schedule alone. -/
theorem step_is_move : ∃ m a d, step s = takeMove m { s with agenda := a, draws := d } := by
  cases h : s.agenda with
  | nil => exact ⟨Config.freeMove s.draws, [], s.draws + 1, by rw [step_of_empty s h]; rw [← h]⟩
  | cons m rest => exact ⟨m, rest, s.draws, step_of_agenda s h⟩

/-- An engine with a step runs its operation (rule R230). -/
theorem engineStep_of_enabled {i : Instr} (hb : s.phase ≠ .idle) (hr : s.rst = false)
    (hd : decode s.ctrl = .ok i) : engineStep s = exec i s := by
  simp [engineStep, State.engineEnabled, State.busy, hb, hr, hd]

theorem engineStep_of_disabled (h : s.phase = .idle ∨ s.rst = true) : engineStep s = .next s := by
  rcases h with h | h <;> simp [engineStep, State.engineEnabled, State.busy, h]

end Sys2Proof.Machine
end

