-- ==== Sys2Proof/Laws/PerInstr.lean ====
section
/-! SUPPORT. What holds of every instruction as syntax: the fields the assembler gives it are legal
(30_encoding.md rules R97, R103), and they name its row of the opcode map (rule R102). -/

namespace Sys2Proof.Laws.LegalFields

/-- The assembled fields of `i` are legal, and RSV, SHAPE and OP are its row's. -/
def Statement (i : Instr) : Prop :=
  i.fields.legal = true ∧
    ∃ r ∈ opcodeTable, r.mnemonic = i.mnemonic ∧
      i.fields.rsv.toNat * 128 + i.fields.shape.toNat * 16 + i.fields.op.toNat = r.value.toNat

theorem encodeBuf (cmd : Byte) : Statement (.encodeBuf cmd) := ⟨rfl, opcodeTable[0], by decide, rfl, rfl⟩

theorem encodeZ (cmd : Byte) : Statement (.encodeZ cmd) := ⟨rfl, opcodeTable[1], by decide, rfl, rfl⟩

theorem encodeB (cmd arg : Byte) : Statement (.encodeB cmd arg) := ⟨rfl, opcodeTable[2], by decide, rfl, rfl⟩

theorem encodeH (cmd : Byte) (arg : BitVec 16) : Statement (.encodeH cmd arg) :=
  ⟨rfl, opcodeTable[3], by decide, rfl, rfl⟩

theorem transactBuf (rply : Bool) (cmd : Byte) : Statement (.transactBuf rply cmd) := by
  cases rply <;> exact ⟨rfl, opcodeTable[4], by decide, rfl, rfl⟩

theorem transactZ (rply : Bool) (cmd : Byte) : Statement (.transactZ rply cmd) := by
  cases rply <;> exact ⟨rfl, opcodeTable[5], by decide, rfl, rfl⟩

theorem transactB (rply : Bool) (cmd arg : Byte) : Statement (.transactB rply cmd arg) := by
  cases rply <;> exact ⟨rfl, opcodeTable[6], by decide, rfl, rfl⟩

theorem transactH (rply : Bool) (cmd : Byte) (arg : BitVec 16) : Statement (.transactH rply cmd arg) := by
  cases rply <;> exact ⟨rfl, opcodeTable[7], by decide, rfl, rfl⟩

theorem drain : Statement .drain := ⟨rfl, opcodeTable[8], by decide, rfl, rfl⟩

theorem send : Statement .send := ⟨rfl, opcodeTable[9], by decide, rfl, rfl⟩

theorem receive : Statement .receive := ⟨rfl, opcodeTable[10], by decide, rfl, rfl⟩

theorem waitbyte (ms : BitVec 16) : Statement (.waitbyte ms) := ⟨rfl, opcodeTable[11], by decide, rfl, rfl⟩

end Sys2Proof.Laws.LegalFields
end

