-- ==== Sys2Proof/Laws/Run.lean ====
section
/-! SUPPORT. Runs of several steps: how they compose, and what a stretch of clock moves does. -/

namespace Sys2Proof.Machine

/-- A run takes its first step first. -/
theorem machine_run_succ (M : Host.Core) (k : Nat) {s t : M.State} (h : M.step s = .next t) :
    M.run (k + 1) s = M.run k t := by
  simp [Host.Core.run, h]

/-- A run of `m + n` steps is a run of `m`, then one of `n`. -/
theorem machine_run_add (M : Host.Core) (m n : Nat) {s t : M.State} (h : M.run m s = .next t) :
    M.run (m + n) s = M.run n t := by
  induction m generalizing s with
  | zero => simp only [Host.Core.run, Host.Outcome.next.injEq] at h; rw [h, Nat.zero_add]
  | succ m ih =>
    cases hs : M.step s with
    | next u =>
      rw [machine_run_succ M m hs] at h
      rw [Nat.succ_add_eq_add_succ, Nat.add_succ, machine_run_succ M (m + n) hs, ih h]
    | fault r => simp [Host.Core.run, hs] at h
    | refused r => simp [Host.Core.run, hs] at h

variable {s t : State}

theorem run_succ (k : Nat) (h : step s = .next t) : Host.Core.run core (k + 1) s = Host.Core.run core k t :=
  machine_run_succ core k h

theorem run_add (m n : Nat) (h : Host.Core.run core m s = .next t) :
    Host.Core.run core (m + n) s = Host.Core.run core n t :=
  machine_run_add core m n h

/-- An engine move on the schedule, where the engine has a step (rule R230). -/
theorem step_engine {i : Instr} {rest : List Move} (ha : s.agenda = .engine :: rest) (hp : s.phase ≠ .idle)
    (hr : s.rst = false) (hd : decode s.ctrl = .ok i) : step s = exec i { s with agenda := rest } := by
  rw [step_of_agenda s ha]; exact engineStep_of_enabled _ hp hr hd

/-- `k` clock moves: `k` ms pass and nothing else (rule R8). -/
theorem run_ticks (k : Nat) (rest : List Move) (h : s.agenda = List.replicate k .clock ++ rest) :
    Host.Core.run core k s = .next { s with agenda := rest, now := s.now + BitVec.ofNat 32 k } := by
  induction k generalizing s with
  | zero =>
    have h0 : s.now + BitVec.ofNat 32 0 = s.now := by simp
    rw [h0, ← (show s.agenda = rest from h)]; rfl
  | succ k ih =>
    rw [List.replicate_succ, List.cons_append] at h
    rw [run_succ (t := { s with agenda := List.replicate k .clock ++ rest, now := s.now + 1 }) k
      (by rw [step_of_agenda s h]; rfl), ih rfl]
    have e : s.now + 1 + BitVec.ofNat 32 k = s.now + BitVec.ofNat 32 (k + 1) := by
      apply BitVec.eq_of_toNat_eq
      have h1 : (1 : Word).toNat = 1 := rfl
      simp only [BitVec.toNat_add, BitVec.toNat_ofNat, h1]
      omega
    simp only [e]

end Sys2Proof.Machine
end

