-- ==== Sys2Proof/Laws/Schedule.lean ====
section
/-! SUPPORT. Runs along a schedule, said without the schedule: `RunsTo moves s t`. A micro-step does not read the
agenda, so what a stretch of moves does is one fact about the rest of the state, and stretches compose. -/

namespace Sys2Proof.Machine

/-! ## `exec` does not read the agenda -/

/-- The state with another agenda. -/
def State.withAgenda (s : State) (a : List Move) : State := { s with agenda := a }

/-- The outcome with another agenda in its next state. -/
def outcomeWithAgenda (a : List Move) : StepOutcome → StepOutcome
  | .next t => .next (t.withAgenda a)
  | .fault r => .fault r
  | .refused r => .refused r

variable (s : State) (a : List Move)

@[simp] theorem State.withAgenda_phase : (s.withAgenda a).phase = s.phase := rfl
@[simp] theorem State.withAgenda_rxq : (s.withAgenda a).rxq = s.rxq := rfl
@[simp] theorem State.withAgenda_txlen : (s.withAgenda a).txlen = s.txlen := rfl
@[simp] theorem State.withAgenda_drainNext : (s.withAgenda a).drainNext = s.drainNext := rfl
@[simp] theorem State.withAgenda_framelen : (s.withAgenda a).framelen = s.framelen := rfl
@[simp] theorem State.withAgenda_txIndex : (s.withAgenda a).txIndex = s.txIndex := rfl
@[simp] theorem State.withAgenda_replyDue : (s.withAgenda a).replyDue = s.replyDue := rfl
@[simp] theorem State.withAgenda_rxcount : (s.withAgenda a).rxcount = s.rxcount := rfl
@[simp] theorem State.withAgenda_rxlen : (s.withAgenda a).rxlen = s.rxlen := rfl
@[simp] theorem State.withAgenda_rxcap : (s.withAgenda a).rxcap = s.rxcap := rfl
@[simp] theorem State.withAgenda_cksum : (s.withAgenda a).cksum = s.cksum := rfl
@[simp] theorem State.withAgenda_budget : (s.withAgenda a).budget = s.budget := rfl
@[simp] theorem State.withAgenda_elapsed : (s.withAgenda a).elapsed = s.elapsed := rfl

theorem State.writeBuf_withAgenda (b : Buf) (j : Nat) (v : Byte) :
    (s.withAgenda a).writeBuf b j v = (s.writeBuf b j v).withAgenda a := by
  unfold State.writeBuf; split <;> rfl

theorem State.putFrame_withAgenda (j : Nat) (b : Byte) :
    (s.withAgenda a).putFrame j b = (s.putFrame j b).withAgenda a := by
  rw [State.putFrame, State.writeBuf_withAgenda]; rfl

theorem State.putPayload_withAgenda (p : List Byte) (j : Nat) (s : State) :
    State.putPayload p j (s.withAgenda a) = (State.putPayload p j s).withAgenda a := by
  induction p generalizing j s with
  | nil => rfl
  | cons b p ih => rw [State.putPayload, State.putPayload, State.putFrame_withAgenda, ih]

theorem State.encodeFrame_withAgenda (cmd : Byte) (p : List Byte) :
    (s.withAgenda a).encodeFrame cmd p = (s.encodeFrame cmd p).withAgenda a := by
  have hh : (s.withAgenda a).putHeader cmd p.length = (s.putHeader cmd p.length).withAgenda a := by
    rw [State.putHeader, State.putHeader, ← State.putFrame_withAgenda, ← State.putFrame_withAgenda,
      ← State.putFrame_withAgenda]; rfl
  rw [State.encodeFrame, hh, State.putPayload_withAgenda, State.closeFrame, State.writeBuf_withAgenda]; rfl

theorem State.takePayload_withAgenda (j : Nat) (b : Byte) :
    (s.withAgenda a).takePayload j b = (s.takePayload j b).withAgenda a := by
  have hw : ((s.withAgenda a).ckAdd b).writeBuf .rx j b = ((s.ckAdd b).writeBuf .rx j b).withAgenda a :=
    State.writeBuf_withAgenda (s.ckAdd b) a .rx j b
  unfold State.takePayload
  by_cases h : j < s.rxcap.toNat
  · simp only [State.withAgenda_rxcap, h, if_true, hw]; rfl
  · simp only [State.withAgenda_rxcap, h, if_false]; rfl

theorem State.takeByte_withAgenda (b : Byte) :
    (s.withAgenda a).takeByte b = (s.takeByte b).withAgenda a := by
  unfold State.takeByte
  dsimp only [State.withAgenda_rxcount, State.withAgenda_rxlen]
  split
  · rfl
  · split
    · rfl
    · split
      · exact State.takePayload_withAgenda { s with rxcount := s.rxcount + 1 } a _ b
      · unfold State.takeChecksum
        by_cases h : b = s.cksum
        · rw [if_pos (by exact h), if_pos (by exact h)]; rfl
        · rw [if_neg (by exact h), if_neg (by exact h)]; rfl

theorem State.drainPoll_withAgenda : (s.withAgenda a).drainPoll = outcomeWithAgenda a s.drainPoll := by
  rw [State.drainPoll_eq, State.drainPoll_eq]
  cases hq : s.rxq with
  | nil =>
    simp only [State.withAgenda_rxq, State.withAgenda_budget, State.withAgenda_elapsed, hq, outcomeWithAgenda,
      State.drainDone_eq, State.withAgenda_drainNext]
    split
    · split <;> rfl
    · rfl
  | cons b q => simp only [State.withAgenda_rxq, hq]; rfl

theorem State.rxPoll_withAgenda : (s.withAgenda a).rxPoll = outcomeWithAgenda a s.rxPoll := by
  rw [State.rxPoll_eq, State.rxPoll_eq]
  cases hq : s.rxq with
  | nil =>
    simp only [State.withAgenda_rxq, hq]
    by_cases h : s.budget.toNat < s.elapsed.toNat
    · rw [if_pos h, if_pos (by exact h)]; rfl
    · rw [if_neg h, if_neg (by exact h)]; rfl
  | cons b q =>
    simp only [State.withAgenda_rxq, hq]
    exact congrArg _ (State.takeByte_withAgenda { s with rxq := q } a b)

theorem State.waitPoll_withAgenda : (s.withAgenda a).waitPoll = outcomeWithAgenda a s.waitPoll := by
  rw [State.waitPoll_eq, State.waitPoll_eq]
  cases hq : s.rxq with
  | nil =>
    simp only [State.withAgenda_rxq, hq]
    by_cases h : s.budget.toNat < s.elapsed.toNat
    · rw [if_pos h, if_pos (by exact h)]; rfl
    · rw [if_neg h, if_neg (by exact h)]; rfl
  | cons b q => simp only [State.withAgenda_rxq, hq]; rfl

theorem State.txDone_withAgenda : (s.withAgenda a).txDone = s.txDone.withAgenda a := by
  unfold State.txDone
  cases h : s.replyDue <;> simp only [State.withAgenda_replyDue, h] <;> rfl

theorem State.txStep_withAgenda : (s.withAgenda a).txStep = outcomeWithAgenda a s.txStep := by
  rw [State.txStep_eq, State.txStep_eq]
  by_cases h : s.txIndex + 1 = s.framelen.toNat
  · rw [if_pos h, if_pos (by exact h)]
    exact congrArg _ (State.txDone_withAgenda s.txByte a)
  · rw [if_neg h, if_neg (by exact h)]; rfl

theorem State.sendStart_withAgenda : (s.withAgenda a).sendStart = s.sendStart.withAgenda a := by
  unfold State.sendStart
  by_cases h : s.framelen = 0
  · rw [if_pos h, if_pos (by exact h)]; rfl
  · rw [if_neg h, if_neg (by exact h)]; rfl

theorem State.encodeOp_withAgenda (cmd : Byte) (p : List Byte) :
    (s.withAgenda a).encodeOp cmd p = outcomeWithAgenda a (s.encodeOp cmd p) := by
  unfold State.encodeOp
  simp only [State.withAgenda_phase, State.encodeFrame_withAgenda]
  cases s.phase <;> rfl

theorem State.transactOp_withAgenda (rply : Bool) (cmd : Byte) (p : List Byte) :
    (s.withAgenda a).transactOp rply cmd p = outcomeWithAgenda a (s.transactOp rply cmd p) := by
  unfold State.transactOp State.transactStart
  simp only [State.withAgenda_phase, State.encodeFrame_withAgenda, State.drainPoll_withAgenda,
    State.txStep_withAgenda, State.rxPoll_withAgenda]
  cases s.phase <;> try rfl
  cases rply <;> rfl

/-- A micro-step neither reads nor writes the agenda (notes/assumptions/1.md). -/
theorem exec_withAgenda (i : Instr) : exec i (s.withAgenda a) = outcomeWithAgenda a (exec i s) := by
  cases i with
  | encodeBuf cmd => exact State.encodeOp_withAgenda s a cmd s.payloadBuf
  | encodeZ cmd => exact State.encodeOp_withAgenda s a cmd payloadZ
  | encodeB cmd arg => exact State.encodeOp_withAgenda s a cmd (payloadB arg)
  | encodeH cmd arg => exact State.encodeOp_withAgenda s a cmd (payloadH arg)
  | transactBuf r cmd => exact State.transactOp_withAgenda s a r cmd s.payloadBuf
  | transactZ r cmd => exact State.transactOp_withAgenda s a r cmd payloadZ
  | transactB r cmd arg => exact State.transactOp_withAgenda s a r cmd (payloadB arg)
  | transactH r cmd arg => exact State.transactOp_withAgenda s a r cmd (payloadH arg)
  | drain =>
    simp only [exec, execDrain, State.withAgenda_phase, State.drainPoll_withAgenda]
    cases s.phase <;> rfl
  | send =>
    simp only [exec, execSend, State.withAgenda_phase, State.drainPoll_withAgenda, State.txStep_withAgenda,
      State.sendStart_withAgenda]
    cases s.phase <;> rfl
  | receive =>
    simp only [exec, execReceive, State.withAgenda_phase, State.rxPoll_withAgenda]
    cases s.phase <;> rfl
  | waitbyte ms =>
    simp only [exec, execWaitbyte, State.withAgenda_phase, State.waitPoll_withAgenda]
    cases s.phase <;> rfl

/-! ## Stretches of a schedule -/

/-- The moves lead from `s` to `t`, whatever comes after them on the schedule; the agendas of `s` and `t` themselves
are not looked at. -/
def RunsTo (moves : List Move) (s t : State) : Prop :=
  ∀ rest, Host.Core.run core moves.length (s.withAgenda (moves ++ rest)) = .next (t.withAgenda rest)

variable {s a}
variable {i : Instr} {t u : State}

theorem RunsTo.nil (s : State) : RunsTo [] s s := fun _ => rfl

theorem RunsTo.append {m n : List Move} (h : RunsTo m s t) (k : RunsTo n t u) : RunsTo (m ++ n) s u := by
  intro rest
  rw [List.length_append, List.append_assoc, run_add _ _ (h (n ++ rest))]
  exact k rest

/-- A run along a schedule that is on the agenda. -/
theorem RunsTo.run {moves rest : List Move} (h : RunsTo moves s t) (ha : s.agenda = moves ++ rest) :
    Host.Core.run core moves.length s = .next (t.withAgenda rest) := by
  have e : s.withAgenda (moves ++ rest) = s := by rw [← ha]; rfl
  rw [← h rest, e]

/-- One move. -/
theorem RunsTo.move {m : Move} (h : ∀ a, takeMove m (s.withAgenda a) = .next (t.withAgenda a)) :
    RunsTo [m] s t := by
  intro rest
  refine run_succ 0 (t := t.withAgenda rest) ?_
  rw [step_of_agenda (rest := rest) _ rfl]; exact h rest

/-- One engine micro-step. -/
theorem RunsTo.engine (hp : s.phase ≠ .idle) (hr : s.rst = false) (hd : decode s.ctrl = .ok i)
    (h : exec i s = .next t) : RunsTo [.engine] s t :=
  .move fun a =>
    (engineStep_of_enabled (s.withAgenda a) hp hr hd).trans (by rw [exec_withAgenda, h]; rfl)

theorem RunsTo.tick (s : State) : RunsTo [.clock] s { s with now := s.now + 1 } := .move fun _ => rfl

theorem add_ofNat_succ (x : Word) (k : Nat) : x + BitVec.ofNat 32 k + 1 = x + BitVec.ofNat 32 (k + 1) := by
  have h1 : (1 : Word).toNat = 1 := rfl
  apply BitVec.eq_of_toNat_eq
  simp only [BitVec.toNat_add, BitVec.toNat_ofNat, h1]
  omega

/-- `k` ms pass. -/
theorem RunsTo.ticks (k : Nat) (s : State) :
    RunsTo (List.replicate k .clock) s { s with now := s.now + BitVec.ofNat 32 k } := by
  intro rest
  rw [List.length_replicate]; exact run_ticks k rest rfl

/-- A byte arrives at an empty queue. -/
theorem RunsTo.arrive (b : Byte) (lost : Nat) (hq : s.rxq = []) (hd : 1 ≤ s.params.rxqDepth) :
    RunsTo [.linkRx b lost] s { s with rxq := [b] } :=
  .move fun a => by
    have h0 : (s.withAgenda a).linkArrive b lost = { s.withAgenda a with rxq := s.rxq ++ [b] } :=
      if_pos (show s.rxq.length < s.params.rxqDepth by rw [hq]; exact hd)
    rw [takeMove, h0, hq]; rfl

/-- `k` ms pass with a poll after each, every one of them pending. -/
theorem RunsTo.polledTicks (k : Nat) (hp : s.phase ≠ .idle) (hr : s.rst = false) (hd : decode s.ctrl = .ok i)
    (h : ∀ j, j ≤ k → exec i { s with now := s.now + BitVec.ofNat 32 j } =
      .next { s with now := s.now + BitVec.ofNat 32 j }) :
    RunsTo (List.replicate k [Move.clock, .engine]).flatten s { s with now := s.now + BitVec.ofNat 32 k } := by
  induction k with
  | zero =>
    have e : s.now + BitVec.ofNat 32 0 = s.now := by simp
    rw [e]; exact RunsTo.nil s
  | succ k ih =>
    have c := RunsTo.tick { s with now := s.now + BitVec.ofNat 32 k }
    simp only [add_ofNat_succ] at c
    rw [List.replicate_succ', List.flatten_append, List.flatten_singleton]
    exact (ih fun j hj => h j (by omega)).append
      (c.append (.engine (s := { s with now := s.now + BitVec.ofNat 32 (k + 1) }) hp hr hd (h (k + 1) le_rfl)))

/-- The wait before an arrival, polled or not. -/
theorem RunsTo.wait (polled : Bool) (k : Nat) (hp : s.phase ≠ .idle) (hr : s.rst = false)
    (hd : decode s.ctrl = .ok i)
    (h : polled = true → ∀ j, j ≤ k → exec i { s with now := s.now + BitVec.ofNat 32 j } =
      .next { s with now := s.now + BitVec.ofNat 32 j }) :
    RunsTo (List.replicate k (if polled then [.clock, .engine] else [.clock])).flatten s
      { s with now := s.now + BitVec.ofNat 32 k } := by
  cases polled with
  | true => exact .polledTicks k hp hr hd (h rfl)
  | false =>
    have e : (List.replicate k [Move.clock]).flatten = List.replicate k .clock := by simp
    simp only [Bool.false_eq_true, if_false, e]; exact .ticks k s

/-- A wait, a byte, and the poll that finds it. -/
theorem RunsTo.arrival (polled : Bool) (w : Nat × Byte) (hp : s.phase ≠ .idle) (hr : s.rst = false)
    (hd : decode s.ctrl = .ok i) (hq : s.rxq = []) (hl : 1 ≤ s.params.rxqDepth)
    (h : polled = true → ∀ j, j ≤ w.1 → exec i { s with now := s.now + BitVec.ofNat 32 j } =
      .next { s with now := s.now + BitVec.ofNat 32 j })
    (he : exec i { s with now := s.now + BitVec.ofNat 32 w.1, rxq := [w.2] } = .next t) :
    RunsTo (Sys2Proof.Machine.arrival polled w) s t :=
  (RunsTo.wait polled w.1 hp hr hd h).append
    ((RunsTo.arrive w.2 0 (s := { s with now := s.now + BitVec.ofNat 32 w.1 }) hq hl).append
      (.engine (s := { s with now := s.now + BitVec.ofNat 32 w.1, rxq := [w.2] }) hp hr hd he))

/-- `j` ms after a wait began, `j` within its budget. -/
theorem State.elapsed_le {T : BitVec 16} {j : Nat} (ht : s.t0 = s.now) (hj : j ≤ T.toNat) :
    (({ s with now := s.now + BitVec.ofNat 32 j } : State).elapsed).toNat ≤ T.toNat := by
  have hT := T.isLt
  simp only [State.elapsed, ht]
  rw [BitVec.add_comm, BitVec.add_sub_cancel, BitVec.toNat_ofNat]
  omega

/-- One ms past the budget of a wait. -/
theorem State.elapsed_past (T : BitVec 16) (ht : s.t0 = s.now) :
    T.toNat < (({ s with now := s.now + BitVec.ofNat 32 (T.toNat + 1) } : State).elapsed).toNat := by
  have hT := T.isLt
  simp only [State.elapsed, ht]
  rw [BitVec.add_comm, BitVec.add_sub_cancel, BitVec.toNat_ofNat]
  omega

end Sys2Proof.Machine
end

