-- ==== Sys2Proof/Tests/Slice0.lean ====
section
/-! SUPPORT. Tests on small states, one step each, expected values from 95_test_vectors.md or by hand from the rule a
comment names; and for every statement with hypotheses a witness that meets them. -/

namespace Sys2Proof.Tests

open Sys2Proof.Machine

/-! ## States -/

/-- An idle framer with the example budgets of 95_test_vectors.md, depth 4, an empty link, at `now` = 1000. -/
def base : State :=
  { State.reset with params := ⟨0xAA, 20, 1000, 150, 4⟩, rxq := [], now := 1000, t0 := 1000 }

/-- The framer in a phase of the operation `w`. -/
def inPhase (p : Phase) (w : Word) : State := { base with phase := p, ctrl := w }

/-- The outcome is a next state of which `f` holds. -/
def after (o : StepOutcome) (f : State → Bool) : Bool :=
  match o with
  | .next t => f t
  | .fault _ => false
  | .refused _ => false

/-- The outcome is a fault. -/
def faulted (o : StepOutcome) : Bool :=
  match o with
  | .next _ => false
  | .fault _ => true
  | .refused _ => false

/-- The first `n` entries of a buffer. -/
def bytes (b : Buf) (n : Nat) (s : State) : List Byte := (List.range n).map (s.readBuf b)

/-- The operation ended with a result. -/
def endedWith (r : OpResult) (s : State) : Bool := s.phase == .idle && s.result == r

/-- FRAME holds E-1's frame, 95_test_vectors.md. -/
def framed (p : Phase) (w : Word) : State :=
  { inPhase p w with mem := [(0x800, 0xAA), (0x804, 0x01), (0x80C, 0xAB)], framelen := 4 }

/-! ## WellFormed: rule R97, one ill-formed tuple of fields per check, and the legal one beside it -/

theorem test_illformed_op_zero : OpWord.opKnown ⟨0, 0, 0, 0, 0, 0⟩ = false := by decide
theorem test_illformed_op_seven : OpWord.opKnown ⟨0, 0, 0, 0, 0, 7⟩ = false := by decide
theorem test_illformed_rsv : OpWord.rsvClear ⟨0, 0, 1, 0, 0, 1⟩ = false := by decide
theorem test_illformed_rply : OpWord.rplyAllowed ⟨0, 0, 0, 1, 0, 1⟩ = false := by decide
theorem test_illformed_shape : OpWord.shapeAllowed ⟨0, 0, 0, 0, 1, 3⟩ = false := by decide
theorem test_illformed_refused :
    OpWord.legal ⟨0, 0, 0, 0, 0, 0⟩ = false ∧ OpWord.legal ⟨0, 0, 1, 0, 0, 1⟩ = false ∧
    OpWord.legal ⟨0, 0, 0, 1, 0, 1⟩ = false ∧ OpWord.legal ⟨0, 0, 0, 0, 1, 3⟩ = false := by decide
theorem test_wellformed : OpWord.legal ⟨0x1234, 7, 0, 1, 3, 2⟩ = true := by decide

/-! ## Decode: each word field by field from rules R90, R91, R94, most significant field first -/

theorem test_decode_encode_buf :
    decode (0b0000000000000000#16 ++ 0b00100000#8 ++ 0b0#1 ++ 0b0#1 ++ 0b00#2 ++ 0b0001#4) =
      .ok (.encodeBuf 0x20) := rfl
theorem test_decode_encode_z :
    decode (0b0000000000000000#16 ++ 0b00000001#8 ++ 0b0#1 ++ 0b0#1 ++ 0b01#2 ++ 0b0001#4) =
      .ok (.encodeZ 0x01) := rfl
theorem test_decode_encode_b :
    decode (0b1010101100010010#16 ++ 0b01010101#8 ++ 0b0#1 ++ 0b0#1 ++ 0b10#2 ++ 0b0001#4) =
      .ok (.encodeB 0x55 0x12) := rfl
theorem test_decode_encode_h :
    decode (0b0001001000110100#16 ++ 0b00000111#8 ++ 0b0#1 ++ 0b0#1 ++ 0b11#2 ++ 0b0001#4) =
      .ok (.encodeH 0x07 0x1234) := rfl
theorem test_decode_transact_buf :
    decode (0b0000000000000000#16 ++ 0b00100000#8 ++ 0b0#1 ++ 0b1#1 ++ 0b00#2 ++ 0b0010#4) =
      .ok (.transactBuf true 0x20) := rfl
theorem test_decode_transact_z :
    decode (0b0000000000000000#16 ++ 0b00000001#8 ++ 0b0#1 ++ 0b0#1 ++ 0b01#2 ++ 0b0010#4) =
      .ok (.transactZ false 0x01) := rfl
theorem test_decode_transact_b :
    decode (0b0000000000011110#16 ++ 0b00000110#8 ++ 0b0#1 ++ 0b0#1 ++ 0b10#2 ++ 0b0010#4) =
      .ok (.transactB false 0x06 0x1E) := rfl
theorem test_decode_transact_h :
    decode (0b0000000000000101#16 ++ 0b00001100#8 ++ 0b0#1 ++ 0b1#1 ++ 0b11#2 ++ 0b0010#4) =
      .ok (.transactH true 0x0C 0x0005) := rfl
theorem test_decode_drain :
    decode (0b0000000000000000#16 ++ 0b00000000#8 ++ 0b0#1 ++ 0b0#1 ++ 0b00#2 ++ 0b0011#4) = .ok .drain := rfl
theorem test_decode_send :
    decode (0b0000000000000000#16 ++ 0b00000000#8 ++ 0b0#1 ++ 0b0#1 ++ 0b00#2 ++ 0b0100#4) = .ok .send := rfl
theorem test_decode_receive :
    decode (0b0000000000000000#16 ++ 0b00000000#8 ++ 0b0#1 ++ 0b0#1 ++ 0b00#2 ++ 0b0101#4) = .ok .receive := rfl
theorem test_decode_waitbyte :
    decode (0b0000000010010110#16 ++ 0b00000000#8 ++ 0b0#1 ++ 0b0#1 ++ 0b00#2 ++ 0b0110#4) =
      .ok (.waitbyte 150) := rfl
theorem test_decode_names_the_check :
    decode 0x0000000F = .error .reservedOp ∧ decode 0x00000091 = .error .rsvSet ∧
    decode 0x00000046 = .error .rplyNotAllowed ∧ decode 0x00000036 = .error .shapeNotAllowed :=
  ⟨rfl, rfl, rfl, rfl⟩

/-! ## ENCODE -/

/-- E-16: three bytes 0xFF, whose sum wraps. -/
theorem test_encode_buf_wraps :
    after (exec (.encodeBuf 0)
      { inPhase .start 1 with txlen := 3, mem := [(0x400, 0xFF), (0x404, 0xFF), (0x408, 0xFF)] })
      (fun t => bytes .frame 8 t == [0xAA, 0x00, 0x03, 0xFF, 0xFF, 0xFF, 0xAA, 0x00] && t.framelen == 7
        && t.cksum == 0xAA && endedWith .ok t) = true := by decide
/-- E-17: a shorter frame clears what the longer one left. -/
theorem test_encode_z_clears_above :
    after (exec (.encodeZ 0x01)
      { inPhase .start 0x111 with mem := [(0x800, 1), (0x810, 0x41), (0xC08, 0x93)], framelen := 259 })
      (fun t => t.mem == [(0x800, 0xAA), (0x804, 0x01), (0x80C, 0xAB)] && t.framelen == 4) = true := by decide
/-- E-8. -/
theorem test_encode_b : after (exec (.encodeB 0x55 0x12) (inPhase .start 0xAB125521))
    (fun t => bytes .frame 6 t == [0xAA, 0x55, 0x01, 0x12, 0x12, 0x00] && t.framelen == 5) = true := by decide
/-- S3, E-9: the high byte first. -/
theorem test_encode_h : after (exec (.encodeH 0x07 0x1234) (inPhase .start 0x12340731))
    (fun t => bytes .frame 6 t == [0xAA, 0x07, 0x02, 0x12, 0x34, 0xF9] && t.framelen == 6) = true := by decide
/-- Rule R41: ENCODE has no phase but START, so the model's fault is reached only from states no run reaches. -/
theorem test_encode_other_phase : faulted (exec (.encodeZ 0x01) (inPhase .rx 0x111)) = true := by decide

/-! ## TRANSACT -/

/-- Rules R231, R235: START encodes TXBUF and begins the drain, a reply due. -/
theorem test_transact_buf_start :
    after (exec (.transactBuf true 0x20)
      { inPhase .start 0x2042 with
        txlen := 3, draincnt := 9, mem := [(0x400, 0x41), (0x404, 0x42), (0x408, 0x43)] })
      (fun t => bytes .frame 7 t == [0xAA, 0x20, 0x03, 0x41, 0x42, 0x43, 0x93] && t.phase == .drain
        && t.replyDue && t.drainNext == .transmit && t.draincnt == 0 && t.budget == 20) = true := by decide
/-- X-1's last TX micro-step: the reply wait begins with T_FIRST. -/
theorem test_transact_z_reply :
    after (exec (.transactZ true 0x01) { framed .tx 0x152 with txIndex := 3, replyDue := true })
      (fun t => t.txq == [0xAB] && t.phase == .rx && t.budget == 1000 && t.cksum == 0) = true := by decide
/-- The last TX micro-step with no reply expected ends OK. -/
theorem test_transact_b_no_reply :
    after (exec (.transactB false 0x06 0x1E) { framed .tx 0x001E0622 with txIndex := 3 })
      (fun t => t.txq == [0xAB] && endedWith .ok t) = true := by decide
/-- Rules R160, R235: the drain's last probe opens the transmit. -/
theorem test_transact_h_drained :
    after (exec (.transactH true 0x0C 5)
      { framed .drain 0x50C72 with now := 1021, budget := 20, drainNext := .transmit, txIndex := 7 })
      (fun t => t.phase == .tx && t.txIndex == 0) = true := by decide

/-! ## DRAIN, SEND, WAITBYTE -/

/-- T-3: at 20 ms the byte is still drained, and a fresh probe begins. -/
theorem test_drain_counts :
    after (exec .drain { inPhase .drain 3 with rxq := [0x55, 0x66], now := 1020, budget := 20, draincnt := 0xFFFFFFFF })
      (fun t => t.rxq == [0x66] && t.draincnt == 0 && t.t0 == 1020 && t.phase == .drain) = true := by decide
/-- T-2: at 20 ms the probe goes on. -/
theorem test_drain_boundary :
    after (exec .drain { inPhase .drain 3 with now := 1020, budget := 20 }) (fun t => t.phase == .drain) = true ∧
    after (exec .drain { inPhase .drain 3 with now := 1021, budget := 20 }) (endedWith .ok) = true := by decide
/-- T-5: nothing encoded since reset. -/
theorem test_send_noframe :
    after (exec .send (inPhase .start 4)) (fun t => endedWith .noframe t && t.status == 0x0A) = true := by decide
/-- T-6: a byte in the middle of the frame. -/
theorem test_send_byte :
    after (exec .send { framed .tx 4 with txIndex := 1, txq := [0xAA] })
      (fun t => t.txq == [0xAA, 0x01] && t.txIndex == 2 && t.phase == .tx) = true := by decide
/-- W-3: the byte found stays. -/
theorem test_waitbyte_found :
    after (exec (.waitbyte 0) { inPhase .wb 6 with rxq := [0x33], now := 5000 })
      (fun t => endedWith .ok t && t.rxq == [0x33]) = true := by decide
/-- W-1, W-2: the budget is strict. -/
theorem test_waitbyte_boundary :
    after (exec (.waitbyte 150) { inPhase .wb 0x960006 with now := 1150, budget := 150 })
      (fun t => t.phase == .wb) = true ∧
    after (exec (.waitbyte 150) { inPhase .wb 0x960006 with now := 1151, budget := 150 })
      (fun t => endedWith .timeout t && t.status == 0x06) = true := by decide

/-! ## RECEIVE -/

/-- R-1's last byte. -/
theorem test_receive_checksum_ok :
    after (exec .receive
      { inPhase .rx 5 with rxq := [0xAD, 0x7E], rxcount := 4, rxlen := 1, cksum := 0xAD, mem := [(0x1000, 1)] })
      (fun t => endedWith .ok t && t.rxck == 0xAD && t.rxcount == 5 && t.rxq == [0x7E]
        && bytes .rx 2 t == [1, 0]) = true := by decide
/-- R-2's last byte, with TRUNC kept beside it as in R-10. -/
theorem test_receive_checksum_bad :
    after (exec .receive
      { inPhase .rx 5 with
        rxq := [0xFF], rxcount := 4, rxlen := 1, cksum := 0xAD, trunc := true, mem := [(0x400, 7), (0x1000, 1)] })
      (fun t => endedWith .ckfail t && t.rxck == 0xFF && t.cksum == 0xAD && t.mem == [(0x400, 7)]
        && t.status == 0x14) = true := by decide

/-! ## The host window -/

/-- Rules R22, R30: TXLEN keeps the low byte. -/
theorem test_write_txlen : (hostWrite 0x008 0x1234 base).txlen = 0x34 := by decide
/-- Rule R28: a read of a reserved address. -/
theorem test_read_reserved : (hostRead 0x02C base).accerr = true ∧ (hostRead 0x02C base).rdata = 0 := by decide
/-- Rules R24 to R28: the vectors' STATUS words. -/
theorem test_status_words :
    base.status = 0 ∧ (inPhase .start 3).status = 1 ∧
    ({ base with result := .ok, trunc := true } : State).status = 0x12 ∧
    ({ base with ovr := true, accerr := true } : State).status = 0x60 := by decide
/-- I vectors: an accepted word and a rejected one. -/
theorem test_issue :
    (hostWrite 0x000 0x00000111 base).status = 1 ∧ (hostWrite 0x000 0x00000081 base).status = 8 ∧
    (hostWrite 0x000 0x00000081 base).ctrl = 0 := by decide
/-- K-3, K-9: a sum that wraps, and a swap it cannot see. -/
theorem test_checksum :
    ck [0xAA, 0x60, 0x00] = 0x0A ∧ ck [0xAA, 0x05, 0x02, 0x00, 0xFF] = ck [0xAA, 0x05, 0x02, 0xFF, 0x00] := by decide

/-! ## Witnesses: concrete states that meet the hypotheses of the statements -/

/-- LegalWordMatchesOneRow: a legal word, and one that matches no row. -/
theorem test_wit_row : decode 0x00000111 = .ok (.encodeZ 1) ∧ ∀ r ∈ opcodeTable, r.covers 0x00000007 = false :=
  ⟨rfl, by decide⟩
/-- IgnoredBitsHaveNoEffect. -/
theorem test_wit_ignored :
    decode 0x00000003 = .ok .drain ∧
    (∃ r ∈ opcodeTable, r.covers 0x00000003 = true ∧ (0xFFFFFF03 : Word) &&& r.care = 0x00000003 &&& r.care) ∧
    base.rst = false ∧ base.phase = .idle := ⟨rfl, by decide, rfl, rfl⟩
/-- StepRunsDecodedInstruction, FetchWordRunsNext. -/
theorem test_wit_step :
    ({ inPhase .start 0x111 with agenda := [.engine] } : State).agenda = [.engine] ∧
    (inPhase .start 0x111).rst = false ∧ (inPhase .start 0x111).phase ≠ .idle ∧
    decode (inPhase .start 0x111).ctrl = .ok (.encodeZ 1) ∧ decodeTableWord 32 0x111 = some (.encodeZ 1) :=
  ⟨rfl, rfl, by decide, rfl, by decide⟩
/-- EnvironmentMoves, LinkStreamsMoveByteByByte: a queue one short of its depth, and a full one. -/
theorem test_wit_link :
    ({ base with rxq := [1, 2, 3] } : State).rxq.length < base.params.rxqDepth ∧
    base.params.rxqDepth ≤ ({ base with rxq := [1, 2, 3, 4] } : State).rxq.length := by decide
/-- Rule R43: where the queue is full, one byte is lost, and which one is the move's argument. -/
theorem test_link_full :
    (({ base with rxq := [1, 2, 3, 4] } : State).linkArrive 5 0).rxq = [2, 3, 4, 5] ∧
    (({ base with rxq := [1, 2, 3, 4] } : State).linkArrive 5 4).rxq = [1, 2, 3, 4] ∧
    (({ base with rxq := [1, 2, 3] } : State).linkArrive 5 0).rxq = [1, 2, 3, 5] := by decide
/-- LegalWordIsAccepted, IllegalWordIsRejected. -/
theorem test_wit_issue :
    base.rst = false ∧ base.phase = .idle ∧ decode 0x00000152 = .ok (.transactZ true 1) ∧
    ∀ i, decode 0x00000000 ≠ .ok i := ⟨rfl, rfl, rfl, fun _ h => nomatch h⟩
/-- BusyWriteIsOverrun: its four kinds of address, the last TXBUF entry among them. -/
theorem test_wit_overrun :
    (inPhase .wb 6).rst = false ∧ (inPhase .wb 6).phase ≠ .idle ∧ (0x7F8 : BusAddr).toNat = 0x400 + 4 * 254 ∧
    (hostWrite 0x000 0x111 (inPhase .wb 6)).ovr = true ∧ (hostWrite 0x008 1 (inPhase .wb 6)).ovr = true ∧
    (hostWrite 0x00C 1 (inPhase .wb 6)).ovr = true ∧ (hostWrite 0x7F8 1 (inPhase .wb 6)).ovr = true := by decide
/-- HostWriteEffects: the bounds of its address classes. -/
theorem test_wit_write_classes :
    (0x1FFF : BusAddr).toNat % 4 ≠ 0 ∧ isReservedAddr 0x02C = true ∧ isReservedAddr 0x3FC = true ∧
    isReservedAddr 0x7FC = true ∧ isReservedAddr 0xC0C = true ∧ isReservedAddr 0xFFC = true ∧
    isReservedAddr 0x13FC = true ∧ isReservedAddr 0x1FFC = true ∧
    isReadOnlyAddr 0x010 = true ∧ isReadOnlyAddr 0x028 = true ∧ isReadOnlyAddr 0x800 = true ∧
    isReadOnlyAddr 0xC08 = true ∧ isReadOnlyAddr 0x1000 = true ∧ isReadOnlyAddr 0x13F8 = true ∧
    isProtectedAddr 0x000 = true ∧ isProtectedAddr 0x00C = true ∧ isProtectedAddr 0x400 = true ∧
    isProtectedAddr 0x7F8 = true ∧ isProtectedAddr 0x004 = false := by decide
/-- HostWriteEffects: what a write does at one address of each class. -/
theorem test_write_classes :
    (hostWrite 0x1FFF 1 base).accerr = true ∧ (hostWrite 0x13FC 1 base).accerr = true ∧
    (hostWrite 0x13F8 1 base).accerr = true ∧ (hostWrite 0x004 0x1F base).status = base.status ∧
    (hostWrite 0x004 0x60 { base with ovr := true, accerr := true }).status = 0 := by decide
/-- TxbufWriteReadsBack: the first entry and the last. -/
theorem test_wit_txbuf :
    base.mem.wf = true ∧ (hostWrite 0x400 0x1FF base).readBuf .tx 0 = 0xFF ∧
    (hostWrite 0x7F8 0x101 base).readBuf .tx 254 = 0x01 := by decide
/-- IdleReadsAreExact: the last entry of each buffer. -/
theorem test_wit_reads :
    (0x7F8 : BusAddr).toNat = 0x400 + 4 * 254 ∧ (0xC08 : BusAddr).toNat = 0x800 + 4 * 258 ∧
    (0x13F8 : BusAddr).toNat = 0x1000 + 4 * 254 ∧ (hostRead 0x028 base).rdata = 0xAA ∧
    (hostRead 0xC08 { base with mem := [(0xC08, 0xFE)] }).rdata = 0xFE ∧
    (hostRead 0x13F8 { base with mem := [(0x13F8, 0xFE)] }).accerr = false := by decide
/-- BusyReads: what stays exact, and a bad address. -/
theorem test_wit_busy_reads :
    (inPhase .rx 5).phase ≠ .idle ∧ (hostRead 0x000 (inPhase .rx 5)).rdata = 5 ∧
    (hostRead 0x02C (inPhase .rx 5)).accerr = true ∧ (hostRead 0x010 (inPhase .rx 5)).accerr = false :=
  ⟨by decide, rfl, rfl, rfl⟩
/-- ChecksumDetection. -/
theorem test_wit_checksum : (0x01 : Byte) ≠ 0x02 ∧ [0x00, 0xFF].Perm [(0xFF : Byte), 0x00] :=
  ⟨by decide, List.Perm.swap _ _ _⟩
/-- EncodeBufBuildsFrame, EncodeShapesBuildFrame, TransactStartEncodesAndDrains, DrainStart, SendStart,
ReceiveStart, WaitbyteStart: a START state, with the largest TXLEN. -/
theorem test_wit_start :
    ({ inPhase .start 1 with txlen := 255 } : State).phase = .start ∧
    ({ inPhase .start 1 with txlen := 255 } : State).mem.wf = true ∧
    (inPhase .start 4).framelen = 0 ∧ (framed .start 4).framelen ≠ 0 ∧ (framed .start 4).mem.wf = true := by decide
/-- ConvenienceShapesAgreeWithBuf: TXBUF as it asks for each shape. -/
theorem test_wit_convenience :
    let u : State := { inPhase .start 1 with txlen := 2, mem := [(0x400, 0x12), (0x404, 0x34)] }
    let v : State := { u with txlen := 1 }
    u.phase = .start ∧ u.mem.wf = true ∧ (inPhase .start 0x31).params.marker = u.params.marker ∧
    u.readBuf .tx 0 = (0x1234 : BitVec 16).extractLsb' 8 8 ∧ u.readBuf .tx 1 = (0x1234 : BitVec 16).extractLsb' 0 8 ∧
    v.txlen = 1 ∧ v.readBuf .tx 0 = 0x12 ∧ base.txlen = 0 := by decide
/-- PollOutcomes and the polls of DRAIN, RX and WB: a byte, one ms past the budget, and the budget itself. -/
theorem test_wit_poll :
    ({ base with rxq := [1] } : State).rxq ≠ [] ∧ base.rxq = [] ∧
    ({ base with now := 1021, budget := 20 } : State).poll = .timeout ∧
    ({ base with now := 1020, budget := 20 } : State).poll = .pending ∧
    ({ base with now := 5, t0 := 0xFFFFFFF0, budget := 20 } : State).poll = .timeout := by decide
/-- DrainPollStep, TxByteStep, ReceivePollWithoutByte: the operations that have each phase. -/
theorem test_wit_phases :
    .drain ∈ phasesOf .drain ∧ .drain ∈ phasesOf (.transactZ false 1) ∧ .tx ∈ phasesOf .send ∧
    .tx ∈ phasesOf (.transactB true 1 2) ∧ .rx ∈ phasesOf .receive ∧ .rx ∈ phasesOf (.transactH true 1 2) ∧
    .rx ∉ phasesOf (.transactH false 1 2) := by decide
/-- TxByteStep: a byte in the middle, and the last. -/
theorem test_wit_tx :
    (framed .tx 4).txIndex + 1 ≠ (framed .tx 4).framelen.toNat ∧
    ({ framed .tx 4 with txIndex := 3 } : State).txIndex + 1 = (framed .tx 4).framelen.toNat ∧
    (framed .tx 4).replyDue = false := by decide
/-- ReceiveMarkerAndEcho, ReceiveLength, ReceivePayloadByte, ReceiveChecksumByte: where their ranges of RXCOUNT meet,
with a payload byte that fits and one that does not. -/
theorem test_wit_receive :
    ({ inPhase .rx 5 with rxcount := 1 } : State).rxcount.toNat ≤ 1 ∧
    (let s : State := { inPhase .rx 5 with rxcount := 4, rxlen := 2, rxcap := 2 }
     s.rxcount.toNat = 3 + 1 ∧ 1 < s.rxlen.toNat ∧ 1 < s.rxcap.toNat) ∧
    (let s : State := { inPhase .rx 5 with rxcount := 4, rxlen := 2, rxcap := 1 }
     s.rxcount.toNat = 3 + 1 ∧ 1 < s.rxlen.toNat ∧ s.rxcap.toNat ≤ 1) ∧
    (let s : State := { inPhase .rx 5 with rxcount := 258, rxlen := 255 }
     s.rxcount.toNat = 3 + s.rxlen.toNat) := by decide
/-- R-3's first payload byte is kept and its second dropped. -/
theorem test_take_byte_capacity :
    (({ inPhase .rx 5 with rxcount := 3, rxlen := 3, rxcap := 1 } : State).takeByte 0x10).readBuf .rx 0 = 0x10 ∧
    (({ inPhase .rx 5 with rxcount := 4, rxlen := 3, rxcap := 1 } : State).takeByte 0x20).mem = [] ∧
    (({ inPhase .rx 5 with rxcount := 2, rxcap := 1 } : State).takeByte 2).trunc = true ∧
    (({ inPhase .rx 5 with rxcount := 2, rxcap := 2 } : State).takeByte 2).trunc = false := by decide
/-- ReceiveDecodesWellFormedFrame, ReceiveRejectsWrongChecksum: R-1's frame and R-2's. -/
theorem test_wit_whole_receive :
    let s : State := { inPhase .start 5 with rxq := [0xAA, 1, 1, 1, 0xAD], agenda := List.replicate 6 .engine }
    s.rxq = frameOf 0xAA 1 [1] ++ [] ∧ s.agenda = List.replicate (1 + 5) .engine ++ [] ∧ s.trunc = false ∧
    s.mem.wf = true ∧ (0xFF : Byte) ≠ ck (frameBody 0xAA 1 [1]) := by decide
/-- TransmitWritesWholeFrame. -/
theorem test_wit_whole_tx :
    let s : State := { framed .tx 4 with agenda := List.replicate 4 .engine }
    s.txIndex = 0 ∧ s.framelen ≠ 0 ∧ s.replyDue = false ∧ s.agenda = List.replicate s.framelen.toNat .engine ++ [] := by
  decide
/-- DrainCompletesOnSilence, SendSendsTheEncodedFrame: their schedules. -/
theorem test_wit_silence :
    let s : State := { framed .start 4 with
      agenda := .engine :: (List.replicate 21 .clock ++ .engine :: (List.replicate 4 .engine ++ [])) }
    s.agenda = .engine :: (List.replicate (s.params.tDrain.toNat + 1) .clock ++
      .engine :: (List.replicate s.framelen.toNat .engine ++ [])) ∧ s.rxq = [] ∧ s.framelen ≠ 0 := by decide
/-- TransactSendsItsFrame, RPLY = 0: CTRL holds `transact.z 0x01`, on its schedule. -/
theorem test_wit_transact :
    let s : State := { inPhase .start 0x112 with agenda := sendMoves (inPhase .start 0x112).params 4 ++ [.clock] }
    decode s.ctrl = .ok (.transactZ false 1) ∧ s.rst = false ∧ s.rxq = [] ∧ s.mem.wf = true ∧
    s.agenda = sendMoves s.params (([] : List Byte).length + 4) ++ [.clock] := ⟨rfl, rfl, rfl, rfl, rfl⟩
/-- TransactSendsItsFrame, RPLY = 1: CTRL holds `transact.z.r 0x01`; a reply whose bytes come at the last ms of their
budgets, its checksum byte right (R-1) or wrong (R-2), and its schedule; and the schedule of a silent module. -/
theorem test_wit_transact_reply :
    let s : State := inPhase .start 0x152
    let ws (c : Byte) : List (Nat × Byte) := [(1000, 0xAA), (150, 1), (150, 1), (150, 1), (150, c)]
    decode s.ctrl = .ok (.transactZ true 1) ∧ s.trunc = false ∧ 1 ≤ s.params.rxqDepth ∧
    (ws 0xAD).map Prod.snd = frameOf 0xAA 1 [1] ∧ (ws 0xFF).map Prod.snd = frameBody 0xAA 1 [1] ++ [0xFF] ∧
    (0xFF : Byte) ≠ ck (frameBody 0xAA 1 [1]) ∧ InTime s.params (ws 0xAD) ∧ InTime s.params (ws 0xFF) ∧
    ({ s with agenda := sendMoves s.params 4 ++ (arrivals true (ws 0xAD) ++ []) } : State).agenda =
      sendMoves s.params (([] : List Byte).length + 4) ++ (arrivals true (ws 0xAD) ++ []) ∧
    ({ s with agenda := sendMoves s.params 4 ++ (List.replicate 1001 .clock ++ [.engine]) } : State).agenda =
      sendMoves s.params (([] : List Byte).length + 4) ++
        (List.replicate (s.params.tFirst.toNat + 1) .clock ++ [.engine]) :=
  ⟨rfl, rfl, by decide, by decide, by decide, by decide, ⟨by decide, by decide⟩, ⟨by decide, by decide⟩, rfl, rfl⟩
/-- DrainNeedNotEnd: the beginning of a probe, and a byte at its last ms and one with no ms before it. -/
theorem test_wit_drain_for_ever :
    let s : State := { inPhase .drain 3 with budget := 20 }
    s.phase = .drain ∧ decode s.ctrl = .ok .drain ∧ s.rst = false ∧ s.rxq = [] ∧ 1 ≤ s.params.rxqDepth ∧
    (∀ w ∈ [(20, (1 : Byte)), (0, 2)], w.1 ≤ s.params.tDrain.toNat) ∧ s.t0 = s.now ∧ s.budget = s.params.tDrain :=
  ⟨rfl, rfl, rfl, rfl, by decide, by decide, rfl, rfl⟩

/-- StepKeepsInvariant, InvariantStepAnswers: the invariant holds with WAITBYTE in progress. -/
theorem test_wit_inv : ({ inPhase .wb 0x960006 with agenda := [.engine] } : State).Inv where
  mem := ⟨rfl, by simp [inPhase, base, State.reset]⟩
  queue := by constructor <;> decide
  frame := .inl ⟨rfl, fun j => by
    simp [State.readBuf, inPhase, base, State.reset, Memory.read, Memory.unlisted]⟩
  engine :=
    { idle_next := by decide
      idle_reply := by decide
      busy_none := by decide
      busy_op := fun _ => ⟨.waitbyte 150, rfl, by decide⟩
      start_next := by decide
      drain_next := fun _ _ h => absurd h (by decide)
      send_frame := by decide
      tx_index := by decide
      index_max := by decide
      rx_count := by decide
      count_max := by decide
      len_late := by decide }
  record := by constructor <;> decide
  rst := fun h => absurd h (by decide)
/-- StepKeepsInvariant and the statements on every step: the step from there answers, within the budget and past it. -/
theorem test_wit_next :
    after (step { inPhase .wb 0x960006 with agenda := [.engine], budget := 150 }) (fun t => t.busy) = true ∧
    after (step { inPhase .wb 0x960006 with agenda := [.engine], rxq := [1] }) (fun t => !t.busy) = true := by decide
/-- BusyRisesAndFalls, OvrSetAndCleared, AccerrSetAndCleared, FaultRecordIsKept: a step that sets each bit and one
that clears it. -/
theorem test_wit_bits :
    after (step { base with agenda := [.hostWrite 0x000 3] }) (fun t => t.busy && t.ctrl == 3) = true ∧
    after (step { inPhase .rx 5 with agenda := [.rst true] }) (fun t => !t.busy) = true ∧
    after (step { inPhase .rx 5 with agenda := [.hostWrite 0x00C 3] }) (fun t => t.ovr && t.ovrSeen) = true ∧
    after (step { base with agenda := [.hostWrite 0x004 0x20], ovr := true, ovrSeen := true })
      (fun t => !t.ovr && t.ovrSeen) = true ∧
    after (step { base with agenda := [.hostRead 0x001] }) (fun t => t.accerr && t.accerrSeen) = true ∧
    after (step { base with agenda := [.hostWrite 0x014 0] }) (fun t => t.accerr && t.accerrSeen) = true ∧
    after (step { base with agenda := [.hostWrite 0x004 0x40], accerr := true }) (fun t => !t.accerr) = true := by
  decide
/-- EngineLeavesHostRegisters, ChecksumWriters, WaitbyteLeavesRegisters: `exec` answers. -/
theorem test_wit_exec :
    after (exec .drain (inPhase .start 3)) (fun _ => true) = true ∧
    after (exec (.waitbyte 1) (inPhase .wb 6)) (fun _ => true) = true ∧
    after (exec .send (framed .tx 4)) (fun _ => true) = true ∧ (framed .tx 4).replyDue = false := by decide
/-- ClockAndParameters, EnvironmentMoves: a clock step, at the counter's wrap too (rule R8). -/
theorem test_wit_clock :
    after (step { base with agenda := [.clock] }) (fun t => t.now == 1001) = true ∧
    after (step { base with agenda := [.clock], now := 0xFFFFFFFF }) (fun t => t.now == 0) = true := by decide
/-- ResetInputActs. -/
theorem test_wit_rst :
    after (step { inPhase .rx 5 with agenda := [.rst true], ctrl := 7, txlen := 9, rxq := [1] })
      (fun t => t.ctrl == 0 && t.txlen == 0 && t.rxq == [1] && t.rst) = true ∧
    after (step { base with agenda := [.rst false], rst := true }) (fun t => !t.rst) = true := by decide

end Sys2Proof.Tests
end

/-! SUPPORT. Frames of the agents, what no engine micro-step and what no host access writes, and the statements of
00_scope.md that follow from them. -/

namespace Sys2Proof.Machine

/-! ## What the engine leaves -/

/-- The part of State that no engine micro-step writes (10_state.md rule R22, its column "engine writes"; rules R44,
R45): the registers the host writes, the fault bits and their record, the clock, `rst`, the parameters, the answer of
the latest read and the schedule. -/
structure OutsideEngine where
  ctrl       : Word
  ovr        : Bool
  accerr     : Bool
  txlen      : Byte
  rxcap      : Byte
  now        : Word
  rst        : Bool
  params     : Params
  rdata      : Word
  ovrSeen    : Bool
  accerrSeen : Bool
  agenda     : List Move
  draws      : Nat

/-- The part of a state that no engine micro-step writes. -/
def State.outsideEngine (s : State) : OutsideEngine where
  ctrl       := s.ctrl
  ovr        := s.ovr
  accerr     := s.accerr
  txlen      := s.txlen
  rxcap      := s.rxcap
  now        := s.now
  rst        := s.rst
  params     := s.params
  rdata      := s.rdata
  ovrSeen    := s.ovrSeen
  accerrSeen := s.accerrSeen
  agenda     := s.agenda
  draws      := s.draws

variable {s t : State} {i : Instr}

theorem State.raiseResult_outsideEngine (s : State) (c : OpResult) :
    (s.raiseResult c).outsideEngine = s.outsideEngine := rfl

theorem State.txByte_outsideEngine (s : State) : s.txByte.outsideEngine = s.outsideEngine := rfl

theorem State.receiveEnter_outsideEngine (s : State) : s.receiveEnter.outsideEngine = s.outsideEngine := rfl

theorem State.encodeFrame_outsideEngine (s : State) (cmd : Byte) (p : List Byte) :
    (s.encodeFrame cmd p).outsideEngine = s.outsideEngine := by
  obtain ⟨m, c, f, h⟩ := s.encodeFrame_fields cmd p
  rw [h]; rfl

theorem State.drainDone_outsideEngine (s : State) : s.drainDone.outsideEngine = s.outsideEngine := by
  rw [State.drainDone_eq]; split <;> rfl

theorem State.sendStart_outsideEngine (s : State) : s.sendStart.outsideEngine = s.outsideEngine := by
  obtain ⟨_, h⟩ | ⟨_, h⟩ := s.sendStart_cases <;> rw [h] <;> rfl

theorem State.takeByte_outsideEngine (s : State) (b : Byte) : (s.takeByte b).outsideEngine = s.outsideEngine := by
  obtain ⟨_, h⟩ | ⟨_, h⟩ | ⟨_, _, h⟩ | ⟨_, _, h⟩ | ⟨_, _, h⟩ := s.takeByte_cases b <;> rw [h]
  · rfl
  · rfl
  · rw [State.takePayload_eq]; rfl
  · rfl
  · rfl

theorem StartLeaves.outsideEngine (h : StartLeaves s i t) : t.outsideEngine = s.outsideEngine := by
  cases h with
  | encode cmd p => exact s.encodeFrame_outsideEngine cmd p
  | transact cmd p => exact s.encodeFrame_outsideEngine cmd p
  | send => exact s.sendStart_outsideEngine
  | drain => rfl
  | receive => rfl
  | waitbyte ms => rfl

theorem State.drainPoll_outsideEngine (h : s.drainPoll = .next t) : t.outsideEngine = s.outsideEngine := by
  obtain ⟨_, _, _, rfl⟩ | ⟨_, _, rfl⟩ | rfl := s.drainPoll_cases h
  · rfl
  · exact s.drainDone_outsideEngine
  · rfl

theorem State.txStep_outsideEngine (h : s.txStep = .next t) : t.outsideEngine = s.outsideEngine := by
  obtain ⟨_, rfl⟩ | ⟨_, _, rfl⟩ | ⟨_, _, rfl⟩ := s.txStep_cases h
  · exact s.txByte_outsideEngine
  · exact (s.txByte.raiseResult_outsideEngine .ok).trans s.txByte_outsideEngine
  · exact s.txByte.receiveEnter_outsideEngine.trans s.txByte_outsideEngine

theorem State.rxPoll_outsideEngine (h : s.rxPoll = .next t) : t.outsideEngine = s.outsideEngine := by
  obtain ⟨b, q, _, rfl⟩ | ⟨_, _, rfl⟩ | rfl := s.rxPoll_cases h
  · exact State.takeByte_outsideEngine { s with rxq := q } b
  · rfl
  · rfl

theorem State.waitPoll_outsideEngine (h : s.waitPoll = .next t) : t.outsideEngine = s.outsideEngine := by
  obtain ⟨_, rfl⟩ | ⟨_, _, rfl⟩ | rfl := s.waitPoll_cases h <;> rfl

/-- The frame of every micro-step of every operation (rules R22, R45). -/
theorem exec_outsideEngine (h : exec i s = .next t) : t.outsideEngine = s.outsideEngine := by
  obtain ⟨_, h⟩ | ⟨_, _, h⟩ | ⟨_, _, h⟩ | ⟨_, _, h⟩ | ⟨_, _, h⟩ := exec_cases h
  · exact h.outsideEngine
  · exact State.drainPoll_outsideEngine h
  · exact State.txStep_outsideEngine h
  · exact State.rxPoll_outsideEngine h
  · exact State.waitPoll_outsideEngine h

/-- An engine move that answers is a micro-step of the operation in CTRL, or there is no step to make and the state
stays (rule R230; notes/assumptions/1.md). -/
theorem engineStep_cases (h : engineStep s = .next t) :
    (∃ i, s.phase ≠ .idle ∧ s.rst = false ∧ decode s.ctrl = .ok i ∧ exec i s = .next t) ∨
    ((s.phase = .idle ∨ s.rst = true) ∧ t = s) := by
  by_cases hd : s.phase = .idle ∨ s.rst = true
  · rw [engineStep_of_disabled s hd] at h
    cases h
    exact .inr ⟨hd, rfl⟩
  · obtain ⟨hp, hr⟩ := not_or.mp hd
    simp only [Bool.not_eq_true] at hr
    cases hi : decode s.ctrl with
    | ok i => exact .inl ⟨i, hp, hr, rfl, by rwa [engineStep_of_enabled s hp hr hi] at h⟩
    | error e => simp [engineStep, State.engineEnabled, State.busy, hp, hr, hi] at h

theorem engineStep_outsideEngine (h : engineStep s = .next t) : t.outsideEngine = s.outsideEngine := by
  obtain ⟨i, _, _, _, h⟩ | ⟨_, rfl⟩ := engineStep_cases h
  · exact exec_outsideEngine h
  · rfl

/-! ## What the host leaves -/

/-- The part of State that no host access writes (00_scope.md rule R5): the link, the clock, `rst`, the parameters and
the schedule. -/
structure OutsideHost where
  rxq    : List Byte
  txq    : List Byte
  now    : Word
  rst    : Bool
  params : Params
  agenda : List Move

/-- The part of a state that no host access writes. -/
def State.outsideHost (s : State) : OutsideHost where
  rxq    := s.rxq
  txq    := s.txq
  now    := s.now
  rst    := s.rst
  params := s.params
  agenda := s.agenda

theorem hostRead_outsideHost (a : BusAddr) (s : State) : (hostRead a s).outsideHost = s.outsideHost := by
  obtain ⟨h, _⟩ | ⟨h, _⟩ := hostRead_cases s a <;> rw [h] <;> rfl

theorem State.issue_outsideHost (s : State) (w : Word) : (s.issue w).outsideHost = s.outsideHost := by
  obtain ⟨_, _, h⟩ | ⟨_, _, h⟩ := s.issue_cases w <;> rw [h] <;> rfl

theorem State.setTxbuf_outsideHost (s : State) (j : Nat) (v : Word) :
    (s.setTxbuf j v).outsideHost = s.outsideHost := by
  simp [State.outsideHost, State.setTxbuf]

theorem hostWrite_outsideHost (a : BusAddr) (v : Word) (s : State) :
    (hostWrite a v s).outsideHost = s.outsideHost := by
  obtain ⟨h, _⟩ | ⟨_, h | h | ⟨h, _⟩ | ⟨_, h | h | h | ⟨j, h⟩⟩⟩ := hostWrite_cases s a v <;> rw [h]
  · rfl
  · rfl
  · rfl
  · exact s.issue_outsideHost v
  · rfl
  · rfl
  · exact s.setTxbuf_outsideHost j v

/-! ## What the link and the reset input do -/

theorem State.linkArrive_of_room (b : Byte) (lost : Nat) (h : s.rxq.length < s.params.rxqDepth) :
    s.linkArrive b lost = { s with rxq := s.rxq ++ [b] } := if_pos h

theorem State.linkArrive_of_full (b : Byte) (lost : Nat) (h : s.params.rxqDepth ≤ s.rxq.length) :
    s.linkArrive b lost = { s with rxq := (s.rxq ++ [b]).eraseIdx (min lost s.rxq.length) } :=
  if_neg (Nat.not_lt.mpr h)

/-- An arrival writes `rxq` alone (rule R43). -/
theorem State.linkArrive_eq (s : State) (b : Byte) (lost : Nat) :
    s.linkArrive b lost = { s with rxq := (s.linkArrive b lost).rxq } := by
  unfold State.linkArrive; split <;> rfl

@[simp] theorem State.setRst_now (s : State) (level : Bool) : (s.setRst level).now = s.now := by
  cases level <;> rfl

@[simp] theorem State.setRst_params (s : State) (level : Bool) : (s.setRst level).params = s.params := by
  cases level <;> rfl

/-! ## Steps -/

/-- A step is `nextMove` on a state that differs in the schedule alone. -/
theorem step_is_nextMove (s : State) :
    ∃ a d, step s = takeMove s.nextMove { s with agenda := a, draws := d } := by
  unfold State.nextMove
  cases h : s.agenda with
  | nil => exact ⟨[], s.draws + 1, by rw [step_of_empty s h]; simp only [← h]⟩
  | cons m rest => exact ⟨rest, s.draws, step_of_agenda s h⟩

/-- Every move keeps the parameters, and every move but the clock's keeps `now` (rules R6, R7, R8, R44). -/
theorem takeMove_now_params {m : Move} (h : takeMove m s = .next t) :
    (t.now = s.now ∨ m = .clock ∧ t.now = s.now + 1) ∧ t.params = s.params := by
  cases m with
  | engine =>
    have keep := engineStep_outsideEngine h
    exact ⟨.inl (congrArg OutsideEngine.now keep), congrArg OutsideEngine.params keep⟩
  | hostRead a =>
    cases h
    have keep := hostRead_outsideHost a s
    exact ⟨.inl (congrArg OutsideHost.now keep), congrArg OutsideHost.params keep⟩
  | hostWrite a v =>
    cases h
    have keep := hostWrite_outsideHost a v s
    exact ⟨.inl (congrArg OutsideHost.now keep), congrArg OutsideHost.params keep⟩
  | linkRx b lost =>
    cases h
    rw [s.linkArrive_eq b lost]
    exact ⟨.inl rfl, rfl⟩
  | linkTx n => cases h; exact ⟨.inl rfl, rfl⟩
  | clock => cases h; exact ⟨.inr ⟨rfl, rfl⟩, rfl⟩
  | rst level => cases h; exact ⟨.inl (s.setRst_now level), s.setRst_params level⟩

/-! ## Reset -/

/-- STATUS reads 0 after reset (rule R46). -/
theorem State.IsReset.status_eq_zero (h : s.IsReset) : s.status = 0 := by
  rw [State.status, s.busy_false_iff.mpr h.phase, h.result, h.trunc, h.ovr, h.accerr]
  rfl

/-- Every buffer entry reads 0 after reset (rules R39, R46). -/
theorem State.IsReset.readBuf_eq_zero (h : s.IsReset) (b : Buf) (j : Nat) : s.readBuf b j = 0 := by
  simp [State.readBuf, h.mem, Memory.read, Memory.unlisted]

theorem State.reset_isReset : State.reset.IsReset := by constructor <;> rfl

/-! ## The statements of 00_scope.md -/

/-- Settles O56: a step is one move, and `takeMove_now_params` says what each move does to the clock. -/
theorem clockAndParameters : Obligations.ClockAndParameters := by
  intro s t h
  obtain ⟨a, d, hm⟩ := step_is_nextMove s
  have clock := takeMove_now_params (hm.symm.trans h)
  exact clock

/-- Settles O7: a scheduled engine move with the engine enabled is `exec`. -/
theorem stepRunsDecodedInstruction : Obligations.StepRunsDecodedInstruction :=
  fun _ _ _ ha hr hp hd => step_engine ha hp hr hd

/-- Settles O9: `step_of_agenda` gives the move, and an arrival goes by the room in the queue. -/
theorem environmentMoves : Obligations.EnvironmentMoves := by
  intro s rest
  refine ⟨fun a h => step_of_agenda s h, fun a v h => step_of_agenda s h, fun h => step_of_agenda s h, ?_, ?_,
    fun n h => step_of_agenda s h, step_of_empty s⟩
  · intro b lost h room
    exact (step_of_agenda s h).trans (congrArg Host.Outcome.next
      (State.linkArrive_of_room (s := { s with agenda := rest }) b lost room))
  · intro b lost h full
    exact (step_of_agenda s h).trans (congrArg Host.Outcome.next
      (State.linkArrive_of_full (s := { s with agenda := rest }) b lost full))

/-- Settles O29: the three outcomes of `State.poll`, and `enterWait` by definition. -/
theorem pollOutcomes : Obligations.PollOutcomes := fun s =>
  ⟨s.poll_available_iff.mpr, fun hq hb => s.poll_timeout_iff.mpr ⟨hq, hb⟩,
    fun hq hb => s.poll_pending_iff.mpr ⟨hq, hb⟩, fun _ => rfl⟩

/-- Settles O59: `State.reset` is a reset state, so STATUS and every entry read 0; `rxq` is cut to its depth. -/
theorem resetValues : Obligations.ResetValues :=
  ⟨State.reset_isReset, State.reset_isReset.status_eq_zero, rfl, State.reset_isReset.readBuf_eq_zero,
    List.length_take_le _ _⟩

end Sys2Proof.Machine

/-! SUPPORT. What a host access, a micro-step and a move can leave, each said once as an inductive; what follows for
phases, fault bits, the link, buffer memory and the engine's fields; and the statements of 10_state.md. -/

namespace Sys2Proof.Machine

variable {s t : State} {i : Instr} {m : Move}

/-! ## STATUS -/

/-- Where the arguments of `statusWord` stand, by each of its 96 words (rules R24 to R29). -/
theorem statusWord_layout (busy : Bool) (r : OpResult) (trunc ovr accerr : Bool) :
    (statusWord busy r trunc ovr accerr).getLsbD 0 = busy ∧
    (statusWord busy r trunc ovr accerr).extractLsb' 1 3 = r.code ∧
    (statusWord busy r trunc ovr accerr).getLsbD 4 = trunc ∧
    (statusWord busy r trunc ovr accerr).getLsbD 5 = ovr ∧
    (statusWord busy r trunc ovr accerr).getLsbD 6 = accerr ∧
    (statusWord busy r trunc ovr accerr).extractLsb' 7 25 = 0 := by
  revert busy trunc ovr accerr
  cases r <;> decide

/-! ## Host reads -/

theorem State.answer_of_idle (h : s.phase = .idle) (v : Word) : s.answer v = { s with rdata := v } := by
  simp [State.answer, s.busy_false_iff.mpr h]

theorem State.answer_of_busy (h : s.phase ≠ .idle) (v : Word) :
    s.answer v = { s with rdata := v, draws := s.draws + 1 } := by
  simp [State.answer, s.busy_iff.mpr h]

theorem State.engineWritten_of_idle {w : Nat} (h : s.phase = .idle) (v : BitVec w) :
    s.engineWritten v = v.setWidth 32 := by
  simp [State.engineWritten, s.busy_false_iff.mpr h]

theorem State.engineWritten_lt {w : Nat} (s : State) (v : BitVec w) : (s.engineWritten v).toNat < 2 ^ w := by
  unfold State.engineWritten
  split <;> rw [BitVec.toNat_setWidth] <;> exact (Nat.mod_le _ _).trans_lt (BitVec.isLt _)

theorem hostRead_rdata (a : BusAddr) (s : State) : (hostRead a s).rdata = s.valueAt (targetOf a) := by
  obtain ⟨h, _⟩ | ⟨h, _⟩ := hostRead_cases s a <;> rw [h] <;> rfl

/-- A read of a register or an entry records no error (rule R61). -/
theorem hostRead_of_good {a : BusAddr} (h : ¬(a.toNat % 4 ≠ 0 ∨ isReservedAddr a = true)) :
    hostRead a s = s.answer (s.valueAt (targetOf a)) := by
  obtain ⟨h', _⟩ | ⟨_, _, bad⟩ := hostRead_cases s a
  · exact h'
  · exact absurd ((targetOf_bad_iff a).mp bad) h

/-- A misaligned or reserved read answers 0 and records the error (rules R61, R255). -/
theorem hostRead_of_bad {a : BusAddr} (hr : s.rst = false) (h : a.toNat % 4 ≠ 0 ∨ isReservedAddr a = true) :
    hostRead a s = (s.answer 0).accessError := by
  have bad := (targetOf_bad_iff a).mpr h
  obtain ⟨_, hr' | ⟨hm, hv⟩⟩ | ⟨h', _, _⟩ := hostRead_cases s a
  · simp [hr] at hr'
  · exact absurd bad (not_or.mpr ⟨hm, hv⟩)
  · rw [h']
    rcases bad with h | h <;> rw [h] <;> rfl

/-- A read of a register or an entry while BUSY = 0. -/
theorem hostRead_idle_target (a : BusAddr) (T : Target) (hp : s.phase = .idle) (ht : targetOf a = T)
    (hT : T ≠ .misaligned ∧ T ≠ .reserved) : hostRead a s = { s with rdata := s.valueAt T } := by
  rw [hostRead_of_good, ht, State.answer_of_idle hp]
  rw [← targetOf_bad_iff, ht]
  exact not_or.mpr hT

theorem hostRead_idle_entry {a : BusAddr} {b : Buf} {k : Nat} (hp : s.phase = .idle) (hk : k < b.size)
    (ha : a.toNat = b.addr k) : hostRead a s = { s with rdata := (s.mem.read (b.addr k)).setWidth 32 } := by
  have value : s.valueAt (.entry b k) = (s.mem.read (b.addr k)).setWidth 32 := by
    cases b <;> simp only [State.valueAt, State.engineWritten_of_idle hp, State.readBuf, if_pos hk]
  rw [hostRead_idle_target a _ hp (targetOf_entry hk ha) (by simp), value]

/-- At and above 0x800 every answer is a byte: FRAME, RXBUF, or the 0 of a bad address. -/
theorem valueAt_lt_of_buffer {a : BusAddr} (h : 0x800 ≤ a.toNat) : (s.valueAt (targetOf a)).toNat < 256 := by
  have at_a := targetOf_at a
  cases ht : targetOf a with
  | misaligned => simp [State.valueAt]
  | reserved => simp [State.valueAt]
  | entry b k =>
    rw [ht] at at_a
    obtain ⟨hk, ha⟩ := at_a
    cases b with
    | tx => simp only [Buf.size, Buf.addr, Buf.base] at hk ha; omega
    | frame => exact s.engineWritten_lt (s.readBuf .frame k)
    | rx => exact s.engineWritten_lt (s.readBuf .rx k)
  | _ =>
    rw [ht] at at_a
    subst at_a
    simp at h

/-! ## Host accesses by address -/

/-- What a host read leaves: the model's own fields, and the fault bit of a bad address (rules R61, R255). -/
theorem hostRead_leaves (a : BusAddr) (s : State) :
    ∃ v d, hostRead a s = { s with rdata := v, draws := d } ∨
      (s.rst = false ∧ (a.toNat % 4 ≠ 0 ∨ isReservedAddr a = true) ∧
        hostRead a s = { s with rdata := v, draws := d }.accessError) := by
  refine ⟨s.valueAt (targetOf a), if s.busy then s.draws + 1 else s.draws, ?_⟩
  obtain ⟨h, _⟩ | ⟨h, hr, bad⟩ := hostRead_cases s a
  · exact .inl h
  · exact .inr ⟨hr, (targetOf_bad_iff a).mp bad, h⟩

/-- What a host write can leave, with the address that makes it so (rules R62, R100, R230, R254, R255). -/
inductive WriteLeaves (s : State) (a : BusAddr) (v : Word) : State → Prop where
  /-- Nothing is written while `rst` is asserted (notes/assumptions/6.md). -/
  | inReset (hr : s.rst = true) : WriteLeaves s a v s
  | bad (hr : s.rst = false) (ha : a.toNat % 4 ≠ 0 ∨ isReservedAddr a = true ∨ isReadOnlyAddr a = true) :
      WriteLeaves s a v s.accessError
  | clear (hr : s.rst = false) (ha : a = 0x004) : WriteLeaves s a v (s.clearFaultBits v)
  | overrun (hr : s.rst = false) (ha : isProtectedAddr a = true) (hp : s.phase ≠ .idle) :
      WriteLeaves s a v s.overrun
  | accept (hr : s.rst = false) (ha : a = 0x000) (hp : s.phase = .idle) (i : Instr) (hd : decode v = .ok i) :
      WriteLeaves s a v (s.accept v)
  | reject (hr : s.rst = false) (ha : a = 0x000) (hp : s.phase = .idle) :
      WriteLeaves s a v { s with trunc := false, result := .illegal }
  | txlen (hr : s.rst = false) (ha : a = 0x008) (hp : s.phase = .idle) : WriteLeaves s a v (s.setTxlen v)
  | rxcap (hr : s.rst = false) (ha : a = 0x00C) (hp : s.phase = .idle) : WriteLeaves s a v (s.setRxcap v)
  | txbuf (hr : s.rst = false) (k : Nat) (hk : k < 255) (ha : a.toNat = Buf.addr .tx k) (hp : s.phase = .idle) :
      WriteLeaves s a v (s.writeBuf .tx k (v.setWidth 8))

theorem WriteLeaves.unlessBusy {a : BusAddr} {v : Word} (hr : s.rst = false) (ha : isProtectedAddr a = true)
    (h : s.phase = .idle → WriteLeaves s a v t) : WriteLeaves s a v (s.unlessBusy t) := by
  unfold State.unlessBusy
  split
  · exact .overrun hr ha (s.busy_iff.mp ‹_›)
  · exact h (s.busy_false_iff.mp (Bool.eq_false_of_not_eq_true ‹_›))

theorem WriteLeaves.issue {v : Word} (hr : s.rst = false) (hp : s.phase = .idle) :
    WriteLeaves s 0x000 v (s.issue v) := by
  obtain ⟨i, hd, h⟩ | ⟨_, _, h⟩ := s.issue_cases v <;> rw [h]
  · exact .accept hr rfl hp i hd
  · exact .reject hr rfl hp

theorem isReadOnlyAddr_of_entry {a : BusAddr} {b : Buf} {k : Nat} (hb : b ≠ .tx) (hk : k < b.size)
    (ha : a.toNat = b.addr k) : isReadOnlyAddr a = true := by
  cases b <;> simp [isReadOnlyAddr, Buf.size, Buf.addr, Buf.base] at hb hk ha ⊢ <;> omega

theorem hostWrite_of_released (a : BusAddr) (v : Word) (hr : s.rst = false) :
    hostWrite a v s = s.writeAt v (targetOf a) := if_neg (by simp [hr])

theorem State.unlessBusy_of_idle (hp : s.phase = .idle) : s.unlessBusy t = t :=
  if_neg (by simp [s.busy_false_iff.mpr hp])

theorem hostWrite_leaves (a : BusAddr) (v : Word) (s : State) : WriteLeaves s a v (hostWrite a v s) := by
  cases hr : s.rst with
  | true => rw [hostWrite, if_pos hr]; exact .inReset hr
  | false =>
    have at_a := targetOf_at a
    rw [hostWrite_of_released a v hr]
    generalize targetOf a = target at at_a ⊢
    cases target with
    | misaligned => exact .bad hr (.inl at_a)
    | reserved => exact .bad hr (.inr (.inl at_a))
    | ctrl => subst at_a; exact .unlessBusy hr rfl (.issue hr)
    | status => exact .clear hr at_a
    | txlen => subst at_a; exact .unlessBusy hr rfl (.txlen hr rfl)
    | rxcap => subst at_a; exact .unlessBusy hr rfl (.rxcap hr rfl)
    | entry b k =>
      obtain ⟨hk, ha⟩ := at_a
      cases b with
      | tx =>
        have prot := (isProtectedAddr_iff a).mpr (.inr (.inr (.inr ⟨k, hk, ha⟩)))
        exact .unlessBusy hr prot (.txbuf hr k hk ha)
      | frame => exact .bad hr (.inr (.inr (isReadOnlyAddr_of_entry (by simp) hk ha)))
      | rx => exact .bad hr (.inr (.inr (isReadOnlyAddr_of_entry (by simp) hk ha)))
    | _ => subst at_a; exact .bad hr (.inr (.inr rfl))

theorem hostWrite_ctrl_of_idle {w : Word} (hr : s.rst = false) (hp : s.phase = .idle) (hd : decode w = .ok i) :
    hostWrite 0x000 w s = s.accept w := by
  have issue : s.issue w = s.accept w := by rw [State.issue, hd]
  rw [hostWrite_of_released _ _ hr, ← issue]
  exact State.unlessBusy_of_idle hp

theorem hostWrite_txbuf_of_idle {a : BusAddr} {k : Nat} {v : Word} (hr : s.rst = false) (hp : s.phase = .idle)
    (hk : k < 255) (ha : a.toNat = Buf.addr .tx k) : hostWrite a v s = s.setTxbuf k v := by
  rw [hostWrite_of_released _ _ hr, targetOf_entry (b := .tx) hk ha]
  exact State.unlessBusy_of_idle hp

/-! ## The engine's micro-steps -/

/-- What a micro-step of `i` can leave, with the phase and the finding that make it so: `exec_cases` with the polls,
the transmit and the reception taken apart. -/
inductive MicroStep (i : Instr) (s : State) : State → Prop where
  /-- A poll that finds nothing within its budget (rule R180). -/
  | pending : MicroStep i s s
  /-- The operation ends and nothing else changes (rules R160, R163, R182, R250). -/
  | raises (code : OpResult) : MicroStep i s (s.raiseResult code)
  | encodes (cmd : Byte) (p : List Byte) (hs : s.phase = .start) (hp : p.length ≤ 255) :
      MicroStep i s ((s.encodeFrame cmd p).raiseResult .ok)
  | requests (cmd : Byte) (p : List Byte) (hs : s.phase = .start) (hp : p.length ≤ 255)
      (hn : drainNextOf i = .transmit) (hi : .drain ∈ phasesOf i) :
      MicroStep i s (s.transactStart i.expectsReply cmd p)
  | drains (hs : s.phase = .start) (hi : i = .drain) : MicroStep i s (s.drainEnter .finish)
  | sends (hs : s.phase = .start) (hi : i = .send) (hf : s.framelen ≠ 0) :
      MicroStep i s ({ s with replyDue := false }.drainEnter .transmit)
  | receives (hs : s.phase = .start) (hi : i = .receive) : MicroStep i s s.receiveEnter
  | waits (ms : BitVec 16) (hs : s.phase = .start) (hi : i = .waitbyte ms) : MicroStep i s (s.waitEnter ms)
  | discards (b : Byte) (q : List Byte) (hs : s.phase = .drain) (hq : s.rxq = b :: q) :
      MicroStep i s { s with rxq := q }.drainCount
  | drained (hs : s.phase = .drain) (hn : s.drainNext = .transmit) :
      MicroStep i s { s with txIndex := 0, phase := .tx }
  | transmits (hs : s.phase = .tx) (hk : s.txIndex + 1 ≠ s.framelen.toNat) : MicroStep i s s.txByte
  | transmitsLast (hs : s.phase = .tx) : MicroStep i s (s.txByte.raiseResult .ok)
  | awaitsReply (hs : s.phase = .tx) (hr : s.replyDue = true) : MicroStep i s s.txByte.receiveEnter
  | head (b : Byte) (q : List Byte) (hs : s.phase = .rx) (hq : s.rxq = b :: q) (hc : s.rxcount.toNat ≤ 1) :
      MicroStep i s ({ s with rxq := q, rxcount := s.rxcount + 1 }.takeHead b)
  | length (b : Byte) (q : List Byte) (hs : s.phase = .rx) (hq : s.rxq = b :: q) (hc : s.rxcount.toNat = 2) :
      MicroStep i s ({ s with rxq := q, rxcount := s.rxcount + 1 }.takeLength b)
  | payload (b : Byte) (q : List Byte) (hs : s.phase = .rx) (hq : s.rxq = b :: q) (h3 : 3 ≤ s.rxcount.toNat)
      (hc : s.rxcount.toNat < 3 + s.rxlen.toNat) :
      MicroStep i s ({ s with rxq := q, rxcount := s.rxcount + 1 }.takePayload (s.rxcount.toNat - 3) b)
  | accepts (b : Byte) (q : List Byte) (hs : s.phase = .rx) (hq : s.rxq = b :: q)
      (hc : 3 + s.rxlen.toNat ≤ s.rxcount.toNat) :
      MicroStep i s ({ s with rxq := q, rxcount := s.rxcount + 1, rxck := b }.raiseResult .ok)
  | rejects (b : Byte) (q : List Byte) (hs : s.phase = .rx) (hq : s.rxq = b :: q)
      (hc : 3 + s.rxlen.toNat ≤ s.rxcount.toNat) :
      MicroStep i s ({ s with rxq := q, rxcount := s.rxcount + 1, rxck := b }.failReceive .ckfail)
  | expires (hs : s.phase = .rx) : MicroStep i s (s.failReceive .timeout)

theorem StartLeaves.microStep (hs : s.phase = .start) (h : StartLeaves s i t) : MicroStep i s t := by
  cases h with
  | encode cmd p hp i hi => exact .encodes cmd p hs hp
  | transact cmd p hp i hn hi => exact .requests cmd p hs hp hn (by rw [hi]; split <;> simp)
  | drain => exact .drains hs rfl
  | send =>
    obtain ⟨_, h⟩ | ⟨hf, h⟩ := s.sendStart_cases <;> rw [h]
    · exact .raises .noframe
    · exact .sends hs rfl hf
  | receive => exact .receives hs rfl
  | waitbyte ms => exact .waits ms hs rfl

theorem State.drainPoll_microStep (hs : s.phase = .drain) (h : s.drainPoll = .next t) : MicroStep i s t := by
  obtain ⟨b, q, hq, rfl⟩ | ⟨_, _, rfl⟩ | rfl := State.drainPoll_cases h
  · exact .discards b q hs hq
  · unfold State.drainDone
    split
    · exact .raises .ok
    · exact .drained hs ‹_›
  · exact .pending

theorem State.txStep_microStep (hs : s.phase = .tx) (h : s.txStep = .next t) : MicroStep i s t := by
  obtain ⟨hk, rfl⟩ | ⟨_, _, rfl⟩ | ⟨_, hr, rfl⟩ := State.txStep_cases h
  · exact .transmits hs hk
  · exact .transmitsLast hs
  · exact .awaitsReply hs hr

theorem State.rxPoll_microStep (hs : s.phase = .rx) (h : s.rxPoll = .next t) : MicroStep i s t := by
  obtain ⟨b, q, hq, rfl⟩ | ⟨_, _, rfl⟩ | rfl := State.rxPoll_cases h
  · obtain ⟨hc, e⟩ | ⟨hc, e⟩ | ⟨h3, hc, e⟩ | ⟨hc, _, e⟩ | ⟨hc, _, e⟩ := State.takeByte_cases { s with rxq := q } b <;>
      rw [e]
    · exact .head b q hs hq hc
    · exact .length b q hs hq hc
    · exact .payload b q hs hq h3 hc
    · exact .accepts b q hs hq hc
    · exact .rejects b q hs hq hc
  · exact .expires hs
  · exact .pending

theorem State.waitPoll_microStep (h : s.waitPoll = .next t) : MicroStep i s t := by
  obtain ⟨_, rfl⟩ | ⟨_, _, rfl⟩ | rfl := State.waitPoll_cases h
  · exact .raises .ok
  · exact .raises .timeout
  · exact .pending

theorem exec_microStep (h : exec i s = .next t) : MicroStep i s t := by
  obtain ⟨hs, h⟩ | ⟨hs, _, h⟩ | ⟨hs, _, h⟩ | ⟨hs, _, h⟩ | ⟨_, _, h⟩ := exec_cases h
  · exact h.microStep hs
  · exact State.drainPoll_microStep hs h
  · exact State.txStep_microStep hs h
  · exact State.rxPoll_microStep hs h
  · exact State.waitPoll_microStep h

/-! ## Moves -/

/-- What a move can leave (00_scope.md rule R5). -/
inductive MoveLeaves (s : State) : Move → State → Prop where
  /-- A micro-step of the operation in CTRL (rule R230). -/
  | runs {t : State} (i : Instr) (hp : s.phase ≠ .idle) (hr : s.rst = false) (hd : decode s.ctrl = .ok i)
      (h : exec i s = .next t) : MoveLeaves s .engine t
  /-- The engine has no step to make (notes/assumptions/1.md). -/
  | rests : MoveLeaves s .engine s
  | reads (a : BusAddr) (v : Word) (d : Nat) : MoveLeaves s (.hostRead a) { s with rdata := v, draws := d }
  | readsBad (a : BusAddr) (v : Word) (d : Nat) (hr : s.rst = false)
      (ha : a.toNat % 4 ≠ 0 ∨ isReservedAddr a = true) :
      MoveLeaves s (.hostRead a) { s with rdata := v, draws := d }.accessError
  | writes {t : State} (a : BusAddr) (v : Word) (h : WriteLeaves s a v t) : MoveLeaves s (.hostWrite a v) t
  | arrives (b : Byte) (lost : Nat) (hq : s.rxq.length < s.params.rxqDepth) :
      MoveLeaves s (.linkRx b lost) { s with rxq := s.rxq ++ [b] }
  | arrivesFull (b : Byte) (lost : Nat) (hq : s.params.rxqDepth ≤ s.rxq.length) :
      MoveLeaves s (.linkRx b lost) { s with rxq := (s.rxq ++ [b]).eraseIdx (min lost s.rxq.length) }
  | takes (n : Nat) : MoveLeaves s (.linkTx n) { s with txq := s.txq.drop n }
  | ticks : MoveLeaves s .clock { s with now := s.now + 1 }
  | resets : MoveLeaves s (.rst true) { s.framerReset with rst := true }
  | releases : MoveLeaves s (.rst false) { s with rst := false }

theorem takeMove_leaves (h : takeMove m s = .next t) : MoveLeaves s m t := by
  cases m with
  | engine =>
    obtain ⟨i, hp, hr, hd, h⟩ | ⟨_, rfl⟩ := engineStep_cases h
    · exact .runs i hp hr hd h
    · exact .rests
  | hostRead a =>
    cases h
    obtain ⟨v, d, h | ⟨hr, ha, h⟩⟩ := hostRead_leaves a s
    · rw [h]; exact .reads a v d
    · rw [h]; exact .readsBad a v d hr ha
  | hostWrite a v => cases h; exact .writes a v (hostWrite_leaves a v s)
  | linkRx b lost =>
    cases h
    rcases Nat.lt_or_ge s.rxq.length s.params.rxqDepth with hq | hq
    · rw [State.linkArrive_of_room b lost hq]; exact .arrives b lost hq
    · rw [State.linkArrive_of_full b lost hq]; exact .arrivesFull b lost hq
  | linkTx n => cases h; exact .takes n
  | clock => cases h; exact .ticks
  | rst level =>
    cases h
    cases level with
    | true => exact .resets
    | false => exact .releases

/-- A step is the next move on a state that differs in the schedule alone. -/
theorem step_leaves (h : step s = .next t) :
    ∃ a d, MoveLeaves { s with agenda := a, draws := d } s.nextMove t := by
  obtain ⟨a, d, hm⟩ := step_is_nextMove s
  exact ⟨a, d, takeMove_leaves (hm.symm.trans h)⟩

/-! ## Phases -/

theorem phaseMayGo_refl (p : Phase) : phaseMayGo p p = true := by cases p <;> rfl

theorem phaseMayGo_idle (p : Phase) : phaseMayGo p .idle = true := by cases p <;> rfl

/-- A micro-step goes where the table of rule R41 lets it. -/
theorem MicroStep.phaseMayGo (h : MicroStep i s t) : phaseMayGo s.phase t.phase = true := by
  cases h with
  | pending => exact phaseMayGo_refl _
  | raises | encodes | transmitsLast | accepts | rejects | expires => exact phaseMayGo_idle _
  | requests _ _ hs | drains hs | sends hs | receives hs | waits _ hs | drained hs | awaitsReply hs => rw [hs]; rfl
  | discards | transmits | head | length => exact phaseMayGo_refl _
  | payload => rw [State.takePayload_eq]; exact phaseMayGo_refl _

/-- A host write changes the phase only where it issues a legal word (rule R230). -/
theorem WriteLeaves.phase_cases {a : BusAddr} {v : Word} (h : WriteLeaves s a v t) :
    t.phase = s.phase ∨
    (a = 0x000 ∧ s.phase = .idle ∧ (∃ i, decode v = .ok i) ∧ t.ctrl = v ∧ t.phase = .start) := by
  cases h with
  | accept hr ha hp i hd => exact .inr ⟨ha, hp, ⟨i, hd⟩, rfl, rfl⟩
  | txbuf => exact .inl (State.writeBuf_phase ..)
  | _ => exact .inl rfl

/-- Who changes the phase: issue, the engine, an assertion of `rst` (rules R24, R41, R46). -/
theorem MoveLeaves.phase_cases (h : MoveLeaves s m t) :
    t.phase = s.phase ∨
    (m = .engine ∧ s.phase ≠ .idle ∧ phaseMayGo s.phase t.phase = true) ∨
    (m = .rst true ∧ t.phase = .idle) ∨
    (∃ w i, m = .hostWrite 0x000 w ∧ s.phase = .idle ∧ decode w = .ok i ∧ t.ctrl = w ∧ t.phase = .start) := by
  cases h with
  | runs i hp _ _ h => exact .inr (.inl ⟨rfl, hp, (exec_microStep h).phaseMayGo⟩)
  | writes a v h =>
    obtain h | ⟨rfl, hp, ⟨i, hd⟩, hc, ht⟩ := h.phase_cases
    · exact .inl h
    · exact .inr (.inr (.inr ⟨v, i, rfl, hp, hd, hc, ht⟩))
  | resets => exact .inr (.inr (.inl ⟨rfl, rfl⟩))
  | _ => exact .inl rfl

/-! ## Fault bits -/

/-- A bit that stays neither rises nor falls. -/
theorem bit_stays {old new : Bool} (h : new = old) {P Q : Prop} :
    (old = false → new = true → P) ∧ (old = true → new = false → Q) := by
  subst h
  cases new <;> simp

/-- A write of 1 to clear lowers a bit only where the 1 is written (rule R29). -/
theorem bit_clears {old clear : Bool} {P Q : Prop} (h : clear = true → Q) :
    (old = false → (old && !clear) = true → P) ∧ (old = true → (old && !clear) = false → Q) := by
  cases old with
  | false => simp
  | true => simpa using h

theorem MoveLeaves.ovr (h : MoveLeaves s m t) :
    (s.ovr = false → t.ovr = true →
      s.busy = true ∧ ∃ a v, m = .hostWrite a v ∧ isProtectedAddr a = true) ∧
    (s.ovr = true → t.ovr = false → (∃ v, m = .hostWrite 0x004 v ∧ v.getLsbD 5 = true) ∨ m = .rst true) := by
  cases h with
  | runs i _ _ _ h => exact bit_stays (congrArg OutsideEngine.ovr (exec_outsideEngine h))
  | writes a v h =>
    cases h with
    | clear hr ha => subst ha; exact bit_clears fun hv => .inl ⟨v, rfl, hv⟩
    | overrun hr ha hp => exact ⟨fun _ _ => ⟨s.busy_iff.mpr hp, a, v, rfl, ha⟩, fun _ ht => (nomatch ht)⟩
    | txbuf => exact bit_stays (State.writeBuf_ovr ..)
    | _ => exact bit_stays rfl
  | resets => exact ⟨fun _ ht => (nomatch ht), fun _ _ => .inr rfl⟩
  | _ => exact bit_stays rfl

theorem MoveLeaves.accerr (h : MoveLeaves s m t) :
    (s.accerr = false → t.accerr = true →
      (∃ a, m = .hostRead a ∧ (a.toNat % 4 ≠ 0 ∨ isReservedAddr a = true)) ∨
      (∃ a v, m = .hostWrite a v ∧
        (a.toNat % 4 ≠ 0 ∨ isReservedAddr a = true ∨ isReadOnlyAddr a = true))) ∧
    (s.accerr = true → t.accerr = false → (∃ v, m = .hostWrite 0x004 v ∧ v.getLsbD 6 = true) ∨ m = .rst true) := by
  cases h with
  | runs i _ _ _ h => exact bit_stays (congrArg OutsideEngine.accerr (exec_outsideEngine h))
  | readsBad a v d hr ha => exact ⟨fun _ _ => .inl ⟨a, rfl, ha⟩, fun _ ht => (nomatch ht)⟩
  | writes a v h =>
    cases h with
    | bad hr ha => exact ⟨fun _ _ => .inr ⟨a, v, rfl, ha⟩, fun _ ht => (nomatch ht)⟩
    | clear hr ha => subst ha; exact bit_clears fun hv => .inl ⟨v, rfl, hv⟩
    | txbuf => exact bit_stays (State.writeBuf_accerr ..)
    | _ => exact bit_stays rfl
  | resets => exact ⟨fun _ ht => (nomatch ht), fun _ _ => .inr rfl⟩
  | _ => exact bit_stays rfl

/-! ## The link -/

/-- A micro-step takes at most the head of `rxq` and adds at most one byte at the tail of `txq` (rules R70, R76). -/
theorem MicroStep.link (h : MicroStep i s t) :
    (t.rxq = s.rxq ∨ ∃ b, s.rxq = b :: t.rxq) ∧ (t.txq = s.txq ∨ ∃ b, t.txq = s.txq ++ [b]) := by
  cases h with
  | encodes cmd p | requests cmd p =>
    obtain ⟨m, c, f, e⟩ := s.encodeFrame_fields cmd p
    simp only [State.transactStart, e]
    exact ⟨.inl rfl, .inl rfl⟩
  | discards b q hs hq | head b q hs hq | length b q hs hq | accepts b q hs hq | rejects b q hs hq =>
    exact ⟨.inr ⟨b, hq⟩, .inl rfl⟩
  | payload b q hs hq => rw [State.takePayload_eq]; exact ⟨.inr ⟨b, hq⟩, .inl rfl⟩
  | transmits | transmitsLast => exact ⟨.inl rfl, .inr ⟨_, rfl⟩⟩
  | awaitsReply => rw [State.receiveEnter_eq, State.txByte_eq]; exact ⟨.inl rfl, .inr ⟨_, rfl⟩⟩
  | _ => exact ⟨.inl rfl, .inl rfl⟩

theorem WriteLeaves.outsideHost {a : BusAddr} {v : Word} (h : WriteLeaves s a v t) :
    t.outsideHost = s.outsideHost := by
  cases h with
  | txbuf => exact s.setTxbuf_outsideHost _ v
  | _ => rfl

/-! ## Reset -/

theorem State.framerReset_isReset (s : State) :
    ({ s.framerReset with rst := true } : State).IsReset := by constructor <;> rfl

/-! ## Buffer memory -/

/-- What a micro-step leaves in buffer memory and FRAMELEN: both as they were, a new request frame, RXBUF zeroed, or
one entry of RXBUF stored (rules R140, R200, R204, R206, R208). -/
inductive BuffersLeft (s t : State) : Prop where
  | same (hm : t.mem = s.mem) (hf : t.framelen = s.framelen)
  | encoded (cmd : Byte) (p : List Byte) (hp : p.length ≤ 255) (hm : t.mem = (s.encodeFrame cmd p).mem)
      (hf : t.framelen = (s.encodeFrame cmd p).framelen)
  | zeroed (hm : t.mem = (s.clearBuf .rx 0).mem) (hf : t.framelen = s.framelen)
  | stored (j : Nat) (b : Byte) (hm : t.mem = (s.writeBuf .rx j b).mem) (hf : t.framelen = s.framelen)

theorem MicroStep.buffers (h : MicroStep i s t) : BuffersLeft s t := by
  cases h with
  | encodes cmd p _ hp | requests cmd p _ hp => exact .encoded cmd p hp rfl rfl
  | receives => exact .zeroed rfl rfl
  | awaitsReply => rw [State.receiveEnter_eq, State.txByte_eq]; exact .zeroed rfl rfl
  | rejects | expires => rw [State.failReceive_eq]; exact .zeroed rfl rfl
  | payload b q =>
    rw [State.takePayload_eq]
    split
    · exact .stored (s.rxcount.toNat - 3) b (by simp only [State.writeBuf]; split <;> rfl) rfl
    · exact .same rfl rfl
  | _ => exact .same rfl rfl

theorem SameOutside.of_mem_eq {b : Buf} {u : State} (h : SameOutside b s u) (e : t.mem = u.mem) :
    SameOutside b s t := by
  intro a ha
  rw [e]
  exact h a ha

theorem State.MemOk.of_mem_eq (h : s.MemOk) (e : t.mem = s.mem) : t.MemOk := by
  unfold State.MemOk
  rwa [e]

theorem BuffersLeft.wf (h : BuffersLeft s t) (hw : s.mem.wf = true) : t.mem.wf = true := by
  cases h with
  | same hm => rwa [hm]
  | encoded cmd p hp hm =>
    obtain ⟨_, _, wf, _⟩ := State.encodeFrame_spec hw cmd hp
    rwa [hm]
  | zeroed hm => rw [hm]; exact State.clearBuf_wf hw .rx 0
  | stored j b hm => rw [hm]; exact State.writeBuf_wf hw .rx j b

theorem BuffersLeft.memOk (h : BuffersLeft s t) (hs : s.MemOk) : t.MemOk := by
  cases h with
  | same hm => exact hs.of_mem_eq hm
  | encoded cmd p hp hm => exact (State.encodeFrame_memOk hs cmd p).of_mem_eq hm
  | zeroed hm => exact (State.clearBuf_memOk hs .rx 0).of_mem_eq hm
  | stored j b hm => exact (State.writeBuf_memOk hs .rx j b).of_mem_eq hm

/-- A micro-step writes FRAME or RXBUF, one of them (rule R22). -/
theorem BuffersLeft.sameOutside (h : BuffersLeft s t) (hw : s.mem.wf = true) :
    SameOutside .frame s t ∨ SameOutside .rx s t := by
  cases h with
  | same hm => exact .inl (SameOutside.of_mem_eq (u := s) (fun _ _ => rfl) hm)
  | encoded cmd p hp hm => exact .inl ((State.encodeFrame_sameOutside hw cmd p).of_mem_eq hm)
  | zeroed hm => exact .inr ((State.clearBuf_sameOutside s .rx 0).of_mem_eq hm)
  | stored j b hm => exact .inr ((State.writeBuf_sameOutside hw .rx j b).of_mem_eq hm)

/-- Every move keeps the canonical form of buffer memory. -/
theorem MoveLeaves.wf (h : MoveLeaves s m t) (hw : s.mem.wf = true) : t.mem.wf = true := by
  cases h with
  | runs i _ _ _ h => exact (exec_microStep h).buffers.wf hw
  | writes a v h =>
    cases h with
    | txbuf => exact State.writeBuf_wf hw ..
    | _ => exact hw
  | resets => rfl
  | _ => exact hw

/-! ## FRAME -/

theorem State.FrameOk.of_frame_eq (h : s.FrameOk) (hf : t.framelen = s.framelen) (hp : t.params = s.params)
    (hr : ∀ j, t.readBuf .frame j = s.readBuf .frame j) : t.FrameOk := by
  unfold State.FrameOk at h ⊢
  simpa only [hf, hp, hr] using h

theorem State.FrameOk.framelen_le (h : s.FrameOk) : s.framelen.toNat ≤ 259 := by
  obtain ⟨h, _⟩ | ⟨cmd, p, hp, h, _⟩ := h
  · simp [h]
  · omega

theorem BuffersLeft.frameOk (h : BuffersLeft s t) (hw : s.mem.wf = true) (hp : t.params = s.params)
    (hs : s.FrameOk) : t.FrameOk := by
  cases h with
  | same hm hf => exact hs.of_frame_eq hf hp (State.readBuf_of_mem_eq hm .frame)
  | encoded cmd p hl hm hf =>
    obtain ⟨frame, _, _, framelen⟩ := State.encodeFrame_encodedAs hw cmd hl
    refine .inr ⟨cmd, p, hl, by rw [hf, framelen], fun j => ?_⟩
    rw [State.readBuf_of_mem_eq hm, frame, hp]
  | zeroed hm hf =>
    refine hs.of_frame_eq hf hp fun j => ?_
    rw [State.readBuf_of_mem_eq hm, State.readBuf_clearBuf _ _ _ _ _ (Nat.zero_le _), if_neg (by simp)]
  | stored k b hm hf =>
    refine hs.of_frame_eq hf hp fun j => ?_
    rw [State.readBuf_of_mem_eq hm, State.readBuf_writeBuf hw, if_neg (by simp)]

/-! ## The engine's fields -/

/-- The bounds of `State.EngineOk` that hold in every phase. -/
structure State.CountsOk (s : State) : Prop where
  index_max : s.txIndex ≤ 259
  count_max : s.rxcount.toNat ≤ 4 + s.rxlen.toNat
  len_late  : s.rxcount.toNat ≤ 2 → s.rxlen = 0

theorem State.EngineOk.countsOk (h : s.EngineOk) : s.CountsOk := { h with }

/-- The engine is in a phase of the legal operation CTRL holds, RESULT = NONE (rules R41, R230). -/
structure State.Runs (s : State) (i : Instr) : Prop where
  decoded : decode s.ctrl = .ok i
  listed  : s.phase ∈ phasesOf i
  result  : s.result = .none

theorem idle_not_mem_phasesOf (i : Instr) : .idle ∉ phasesOf i := by
  cases i <;> simp [phasesOf] <;> split <;> simp

theorem start_mem_phasesOf (i : Instr) : .start ∈ phasesOf i := by
  cases i <;> simp [phasesOf] <;> split <;> simp

/-- An operation that waits for a reply has the reception's phase (rule R235). -/
theorem rx_mem_phasesOf (h : i.expectsReply = true) : .rx ∈ phasesOf i := by
  cases i <;> simp_all [phasesOf, Instr.expectsReply]

theorem tx_mem_phasesOf (hi : .drain ∈ phasesOf i) (hn : drainNextOf i = .transmit) : .tx ∈ phasesOf i := by
  cases i <;> simp_all [phasesOf, drainNextOf] <;> split <;> simp

theorem State.Runs.phase_ne_idle (h : s.Runs i) : s.phase ≠ .idle :=
  fun hp => idle_not_mem_phasesOf i (hp ▸ h.listed)

theorem State.EngineOk.runs (h : s.EngineOk) (hp : s.phase ≠ .idle) (hd : decode s.ctrl = .ok i) : s.Runs i := by
  obtain ⟨j, hj, listed⟩ := h.busy_op hp
  cases hd.symm.trans hj
  exact ⟨hd, listed, h.busy_none hp⟩

/-- An idle engine (rules R40, R250). -/
theorem State.EngineOk.of_idle (hc : s.CountsOk) (hp : s.phase = .idle) (hn : s.drainNext = .finish)
    (hr : s.replyDue = false) : s.EngineOk := by
  constructor <;> simp [hp, hn, hr, hc.index_max, hc.count_max]
  exact hc.len_late

/-- A busy engine: what is left to say is said of its phase. -/
theorem State.EngineOk.of_runs (h : s.Runs i) (hc : s.CountsOk)
    (start : s.phase = .start → s.drainNext = .finish ∧ s.replyDue = false ∧ s.txIndex = 0)
    (drain : s.phase = .drain ∨ s.phase = .tx → s.drainNext = drainNextOf i ∧ s.replyDue = i.expectsReply)
    (frame : s.phase = .drain ∧ s.drainNext = .transmit ∨ s.phase = .tx → s.framelen ≠ 0)
    (index : s.phase = .tx → s.txIndex < s.framelen.toNat)
    (count : s.phase = .rx → s.rxcount.toNat ≤ 3 + s.rxlen.toNat) : s.EngineOk where
  idle_next hp := absurd hp h.phase_ne_idle
  idle_reply hp := absurd hp h.phase_ne_idle
  busy_none _ := h.result
  busy_op _ := ⟨i, h.decoded, h.listed⟩
  start_next := start
  drain_next j hj hp := by cases h.decoded.symm.trans hj; exact drain hp
  send_frame := frame
  tx_index := index
  index_max := hc.index_max
  rx_count := count
  count_max := hc.count_max
  len_late := hc.len_late

theorem State.CountsOk.raiseResult (h : s.CountsOk) (c : OpResult) : (s.raiseResult c).EngineOk :=
  .of_idle { h with } rfl rfl rfl

theorem State.CountsOk.failReceive (h : s.CountsOk) (c : OpResult) : (s.failReceive c).EngineOk :=
  State.CountsOk.raiseResult (s := s.clearBuf .rx 0) { h with } c

theorem State.CountsOk.encodeFrame (h : s.CountsOk) (cmd : Byte) (p : List Byte) : (s.encodeFrame cmd p).CountsOk := by
  obtain ⟨m, c, f, e⟩ := s.encodeFrame_fields cmd p
  rw [e]
  exact { h with }

/-- A byte more of the transmission. -/
theorem State.EngineOk.txByte_countsOk (h : s.EngineOk) (hs : s.phase = .tx) (hf : s.framelen.toNat ≤ 259) :
    s.txByte.CountsOk where
  index_max := (Nat.succ_le_of_lt (h.tx_index hs)).trans hf
  count_max := h.count_max
  len_late := h.len_late

/-- RXCOUNT counts one more byte of the reply: at most 259 of them, so its nine bits do not wrap (rule R37). -/
theorem State.EngineOk.rxcount_succ (h : s.EngineOk) (hs : s.phase = .rx) :
    (s.rxcount + 1).toNat = s.rxcount.toNat + 1 := by
  have bound := h.rx_count hs
  have hl := s.rxlen.isLt
  rw [BitVec.toNat_add, Nat.mod_eq_of_lt (by simp; omega)]
  rfl

/-- The checksum byte of the reply. -/
theorem State.EngineOk.lastByte_countsOk (h : s.EngineOk) (hs : s.phase = .rx)
    (hc : 3 + s.rxlen.toNat ≤ s.rxcount.toNat) (q : List Byte) (b : Byte) :
    ({ s with rxq := q, rxcount := s.rxcount + 1, rxck := b } : State).CountsOk := by
  have succ := h.rxcount_succ hs
  have bound := h.rx_count hs
  constructor
  · exact h.index_max
  · simp only; omega
  · simp only; omega

theorem State.encodeFrame_framelen_ne_zero (s : State) (cmd : Byte) {p : List Byte} (hp : p.length ≤ 255) :
    (s.encodeFrame cmd p).framelen ≠ 0 := by
  have length : (s.encodeFrame cmd p).framelen = BitVec.ofNat 9 (p.length + 4) := rfl
  intro h
  have := congrArg BitVec.toNat (length.symm.trans h)
  simp at this
  omega

/-- A micro-step of the operation in progress leaves the engine where that operation can be. -/
theorem MicroStep.engineOk (h : MicroStep i s t) (hr : s.Runs i) (he : s.EngineOk) (hf : s.framelen.toNat ≤ 259) :
    t.EngineOk := by
  have counts := he.countsOk
  cases h with
  | pending => exact he
  | raises code => exact counts.raiseResult code
  | encodes cmd p => exact (counts.encodeFrame cmd p).raiseResult .ok
  | requests cmd p hs hp hn hi =>
    have framelen := s.encodeFrame_framelen_ne_zero cmd hp
    obtain ⟨m, c, f, e⟩ := s.encodeFrame_fields cmd p
    unfold State.transactStart
    rw [e] at framelen ⊢
    exact .of_runs ⟨hr.decoded, hi, hr.result⟩ { counts with } nofun (fun _ => ⟨hn.symm, rfl⟩) (fun _ => framelen)
      nofun nofun
  | drains hs hi =>
    subst hi
    obtain ⟨_, reply, _⟩ := he.start_next hs
    rw [State.drainEnter_eq]
    exact .of_runs ⟨hr.decoded, by simp [phasesOf], hr.result⟩ { counts with } nofun (fun _ => ⟨rfl, reply⟩)
      (by simp) nofun nofun
  | sends hs hi hf =>
    subst hi
    rw [State.drainEnter_eq]
    exact .of_runs ⟨hr.decoded, by simp [phasesOf], hr.result⟩ { counts with } nofun (fun _ => ⟨rfl, rfl⟩)
      (fun _ => hf) nofun nofun
  | receives hs hi =>
    subst hi
    rw [State.receiveEnter_eq]
    exact .of_runs ⟨hr.decoded, by simp [phasesOf], hr.result⟩ ⟨counts.index_max, by simp, fun _ => rfl⟩ nofun
      (by simp) (by simp) nofun (by simp)
  | waits ms hs hi =>
    subst hi
    rw [State.waitEnter_eq]
    exact .of_runs ⟨hr.decoded, by simp [phasesOf], hr.result⟩ { counts with } nofun (by simp) (by simp) nofun nofun
  | discards => exact { he with }
  | drained hs hn =>
    obtain ⟨next, reply⟩ := he.drain_next i hr.decoded (.inl hs)
    have framelen := he.send_frame (.inl ⟨hs, hn⟩)
    have index : 0 < s.framelen.toNat := Nat.pos_of_ne_zero fun h => framelen (BitVec.eq_of_toNat_eq h)
    have listed := tx_mem_phasesOf (hs ▸ hr.listed) (next.symm.trans hn)
    exact .of_runs ⟨hr.decoded, listed, hr.result⟩ { counts with index_max := Nat.zero_le _ } nofun
      (fun _ => ⟨next, reply⟩) (fun _ => framelen) (fun _ => index) nofun
  | transmits hs hk =>
    exact { he with
      start_next := fun h => nomatch hs.symm.trans h
      tx_index := fun _ => Nat.lt_of_le_of_ne (Nat.succ_le_of_lt (he.tx_index hs)) hk
      index_max := (he.txByte_countsOk hs hf).index_max }
  | transmitsLast hs => exact (he.txByte_countsOk hs hf).raiseResult .ok
  | awaitsReply hs hd =>
    obtain ⟨_, reply⟩ := he.drain_next i hr.decoded (.inr hs)
    have listed := rx_mem_phasesOf (reply.symm.trans hd)
    have index := (he.txByte_countsOk hs hf).index_max
    rw [State.receiveEnter_eq]
    exact .of_runs ⟨hr.decoded, listed, hr.result⟩ ⟨index, by simp, fun _ => rfl⟩ nofun (by simp) (by simp) nofun
      (by simp)
  | head b q hs hq hc =>
    have succ := he.rxcount_succ hs
    have len := he.len_late (by omega)
    exact { he with
      rx_count := fun _ => by rw [State.takeHead_eq]; simp only; omega
      count_max := by rw [State.takeHead_eq]; simp only; omega
      len_late := fun _ => len }
  | length b q hs hq hc =>
    have succ := he.rxcount_succ hs
    rw [State.takeLength_eq]
    exact { he with
      rx_count := fun _ => by simp only; omega
      count_max := by simp only; omega
      len_late := fun h => by simp only at h; omega }
  | payload b q hs hq h3 hc =>
    have succ := he.rxcount_succ hs
    rw [State.takePayload_eq]
    exact { he with
      rx_count := fun _ => by simp only; omega
      count_max := by simp only; omega
      len_late := fun h => by simp only at h; omega }
  | accepts b q hs hq hc => exact (he.lastByte_countsOk hs hc q b).raiseResult .ok
  | rejects b q hs hq hc => exact (he.lastByte_countsOk hs hc q b).failReceive .ckfail
  | expires => exact counts.failReceive .timeout

/-! ## The invariant -/

/-- A framer at its reset values meets the invariant, whatever its link and its parameters' budgets (rule R46). -/
theorem State.IsReset.inv (h : s.IsReset) (hq : s.QueueOk) : s.Inv where
  mem := by simp [State.MemOk, h.mem, Memory.wf]
  queue := hq
  frame := .inl ⟨h.framelen, h.readBuf_eq_zero .frame⟩
  engine := by
    refine .of_idle ⟨?_, ?_, fun _ => h.rxlen⟩ h.phase h.drainNext h.replyDue
    · simp [h.txIndex]
    · simp [h.rxcount]
  record := by simp [State.RecordOk, h.ovr, h.accerr]
  rst _ := h

/-- The invariant does not read `txq`, the clock, the answer of a read or the schedule, and of `rxq` only the length. -/
theorem State.Inv.of_unread (h : s.Inv) (rxq txq : List Byte) (now rdata : Word) (agenda : List Move) (draws : Nat)
    (hq : rxq.length ≤ s.params.rxqDepth) :
    ({ s with rxq := rxq, txq := txq, now := now, rdata := rdata, agenda := agenda, draws := draws } : State).Inv where
  mem := h.mem
  queue := ⟨h.queue.1, hq⟩
  frame := h.frame
  engine := { h.engine with }
  record := h.record
  rst hr := { h.rst hr with }

/-- A micro-step of the operation in progress keeps the invariant. -/
theorem State.Inv.exec (h : s.Inv) (hp : s.phase ≠ .idle) (hr : s.rst = false) (hd : decode s.ctrl = .ok i)
    (he : exec i s = .next t) : t.Inv := by
  have micro := exec_microStep he
  obtain ⟨_, ovr, accerr, _, _, _, rst, params, _, ovrSeen, accerrSeen, _⟩ :=
    OutsideEngine.mk.inj (exec_outsideEngine he)
  refine ⟨micro.buffers.memOk h.mem, ?_, micro.buffers.frameOk h.mem.1 params h.frame,
    micro.engineOk (h.engine.runs hp hd) h.engine h.frame.framelen_le, ?_, fun ht => ?_⟩
  · obtain ⟨hq | ⟨b, hq⟩, _⟩ := micro.link
    · simpa [State.QueueOk, params, hq] using h.queue
    · have := h.queue
      simp only [State.QueueOk, params, hq, List.length_cons] at this ⊢
      omega
  · simpa [State.RecordOk, ovr, ovrSeen, accerr, accerrSeen] using h.record
  · simp [rst, hr] at ht

/-- What a host write changes while `rst` is released is allowed by the invariant (rules R62, R230). -/
theorem State.Inv.write {a : BusAddr} {v : Word} (h : s.Inv) (hw : WriteLeaves s a v t) : t.Inv := by
  have released {P : Prop} (hr : s.rst = false) (ht : s.rst = true) : P := absurd (hr.symm.trans ht) nofun
  cases hw with
  | inReset => exact h
  | bad hr => exact { h with engine := { h.engine with }, record := ⟨h.record.1, fun _ => rfl⟩, rst := released hr }
  | clear hr =>
    refine { h with engine := { h.engine with }, record := ⟨fun ho => ?_, fun ha => ?_⟩, rst := released hr }
    · exact h.record.1 (Bool.and_eq_true_iff.mp ho).1
    · exact h.record.2 (Bool.and_eq_true_iff.mp ha).1
  | overrun hr =>
    exact { h with engine := { h.engine with }, record := ⟨fun _ => rfl, h.record.2⟩, rst := released hr }
  | accept hr _ hp i hd =>
    have counts := h.engine.countsOk
    have engine : (s.accept v).EngineOk :=
      .of_runs ⟨hd, start_mem_phasesOf i, rfl⟩ { counts with index_max := Nat.zero_le _ } (fun _ => ⟨rfl, rfl, rfl⟩)
        (by simp) (by simp) nofun nofun
    exact { h with engine := engine, rst := released hr }
  | reject hr _ hp =>
    have engine : ({ s with trunc := false, result := .illegal } : State).EngineOk :=
      .of_idle { h.engine.countsOk with } hp (h.engine.idle_next hp) (h.engine.idle_reply hp)
    exact { h with engine := engine, rst := released hr }
  | txlen hr => exact { h with engine := { h.engine with }, rst := released hr }
  | rxcap hr => exact { h with engine := { h.engine with }, rst := released hr }
  | txbuf hr k hk =>
    have mem := State.writeBuf_memOk h.mem .tx k (v.setWidth 8)
    have frame : (s.writeBuf .tx k (v.setWidth 8)).FrameOk := by
      refine h.frame.of_frame_eq (State.writeBuf_framelen ..) (State.writeBuf_params ..) fun j => ?_
      rw [State.readBuf_writeBuf h.mem.1, if_neg (by simp)]
    have stored : s.writeBuf .tx k (v.setWidth 8) = { s with mem := s.mem.write (Buf.addr .tx k) (v.setWidth 8) } :=
      if_pos hk
    rw [stored] at mem frame ⊢
    exact { h with mem := mem, frame := frame, engine := { h.engine with }, rst := released hr }

/-- Every move keeps the invariant. -/
theorem MoveLeaves.inv (hm : MoveLeaves s m t) (h : s.Inv) : t.Inv := by
  have fits := h.queue.2
  cases hm with
  | runs i hp hr hd he => exact h.exec hp hr hd he
  | rests => exact h
  | reads a v d => exact h.of_unread s.rxq s.txq s.now v s.agenda d fits
  | readsBad a v d hr ha =>
    exact (h.of_unread s.rxq s.txq s.now v s.agenda d fits).write (a := a) (v := v) (.bad hr (ha.imp id .inl))
  | writes a v hw => exact h.write hw
  | arrives b lost hq =>
    refine h.of_unread _ s.txq s.now s.rdata s.agenda s.draws ?_
    simpa using hq
  | arrivesFull b lost hq =>
    refine h.of_unread _ s.txq s.now s.rdata s.agenda s.draws ?_
    have : min lost s.rxq.length < (s.rxq ++ [b]).length := by
      rw [List.length_append, List.length_singleton]
      omega
    rw [List.length_eraseIdx_of_lt this, List.length_append, List.length_singleton]
    exact fits
  | takes n => exact h.of_unread s.rxq _ s.now s.rdata s.agenda s.draws fits
  | ticks => exact h.of_unread s.rxq s.txq _ s.rdata s.agenda s.draws fits
  | resets => exact s.framerReset_isReset.inv h.queue
  | releases => exact { h with engine := { h.engine with }, rst := nofun }

/-! ## Progress -/

theorem exec_of_start (hs : s.phase = .start) (i : Instr) : ∃ t, exec i s = .next t := by
  cases i <;> simp [exec, execEncodeBuf, execEncodeZ, execEncodeB, execEncodeH, execTransactBuf, execTransactZ,
    execTransactB, execTransactH, execDrain, execSend, execReceive, execWaitbyte, State.encodeOp, State.transactOp, hs]

theorem exec_of_wb (hs : s.phase = .wb) (hi : .wb ∈ phasesOf i) : exec i s = s.waitPoll := by
  cases i with
  | waitbyte ms => simp [exec, execWaitbyte, hs]
  | transactBuf r | transactZ r | transactB r | transactH r => cases r <;> simp [phasesOf] at hi
  | _ => simp [phasesOf] at hi

/-- In a phase its operation has, a micro-step answers: no poll and no transmission stops (rules R41, R70, R261). -/
theorem exec_answers (h : s.phase ∈ phasesOf i) : ∃ t, exec i s = .next t := by
  cases hs : s.phase with
  | idle => exact absurd (hs ▸ h) (idle_not_mem_phasesOf i)
  | start => exact exec_of_start hs i
  | drain => exact ⟨_, (exec_of_drain hs (hs ▸ h)).trans s.drainPoll_eq⟩
  | tx => exact ⟨_, (exec_of_tx hs (hs ▸ h)).trans s.txStep_eq⟩
  | rx => exact ⟨_, (exec_of_rx hs (hs ▸ h)).trans s.rxPoll_eq⟩
  | wb => exact ⟨_, (exec_of_wb hs (hs ▸ h)).trans s.waitPoll_eq⟩

theorem engineStep_answers (h : s.EngineOk) : ∃ t, engineStep s = .next t := by
  by_cases hd : s.phase = .idle ∨ s.rst = true
  · exact ⟨s, engineStep_of_disabled s hd⟩
  · obtain ⟨hp, hr⟩ := not_or.mp hd
    obtain ⟨i, hi, listed⟩ := h.busy_op hp
    rw [engineStep_of_enabled s hp (Bool.eq_false_of_not_eq_true hr) hi]
    exact exec_answers listed

/-- The engine's move is the only one that could stop. -/
theorem takeMove_answers (h : s.EngineOk) (m : Move) : ∃ t, takeMove m s = .next t := by
  cases m with
  | engine => exact engineStep_answers h
  | _ => exact ⟨_, rfl⟩

/-! ## The statements of 10_state.md -/

/-- Settles O46: a step is one move, and `MoveLeaves.inv` goes through what a move can leave. -/
theorem stepKeepsInvariant : Obligations.StepKeepsInvariant := by
  intro s t h hs
  obtain ⟨a, d, hm⟩ := step_leaves hs
  exact hm.inv (h.of_unread s.rxq s.txq s.now s.rdata a d h.queue.2)

/-- Settles O14: the write stores the low byte, and `Memory.read_write` reads it back. -/
theorem txbufWriteReadsBack : Obligations.TxbufWriteReadsBack := by
  intro s a v k hr hp hm hk ha
  have low : v.setWidth 8 = v.extractLsb' 0 8 := BitVec.setWidth_eq_extractLsb' (by decide)
  have write : hostWrite a v s = s.setTxbuf k v := hostWrite_txbuf_of_idle hr hp hk ha
  have mem : (hostWrite a v s).mem = s.mem.write (0x400 + 4 * k) (v.extractLsb' 0 8) := by
    rw [write, State.setTxbuf, State.writeBuf, low]
    exact congrArg State.mem (if_pos hk)
  refine ⟨?_, ?_, fun x hx => ?_⟩
  · rw [mem, Memory.read_write hm, if_pos rfl]
  · rw [write, State.setTxbuf, State.readBuf_writeBuf hm, if_pos ⟨rfl, rfl, hk⟩, low]
  · rw [mem, Memory.read_write hm, if_neg hx]

/-- Settles O15: one target per clause, and while idle an engine-written register reads its value. -/
theorem idleReadsAreExact : Obligations.IdleReadsAreExact := by
  intro s a hr hp
  have engine {w : Nat} (v : BitVec w) : s.engineWritten v = v.setWidth 32 := State.engineWritten_of_idle hp v
  refine ⟨fun bad => ?_, ?_, ?_, ?_, ?_, ?_, ?_, ?_, ?_, ?_, ?_, ?_, ?_, ?_, ?_⟩
  · rw [hostRead_of_bad hr bad, State.answer_of_idle hp]; rfl
  · rintro rfl; exact hostRead_idle_target _ .ctrl hp rfl (by simp)
  · rintro rfl; rw [hostRead_idle_target _ .status hp rfl (by simp)]
    simp [State.valueAt, State.statusRead, State.status, s.busy_false_iff.mpr hp]
  · rintro rfl; exact hostRead_idle_target _ .txlen hp rfl (by simp)
  · rintro rfl; exact hostRead_idle_target _ .rxcap hp rfl (by simp)
  · rintro rfl; rw [hostRead_idle_target _ .rxlen hp rfl (by simp), State.valueAt, engine]
  · rintro rfl; rw [hostRead_idle_target _ .cksum hp rfl (by simp), State.valueAt, engine]
  · rintro rfl; rw [hostRead_idle_target _ .rxck hp rfl (by simp), State.valueAt, engine]
  · rintro rfl; rw [hostRead_idle_target _ .framelen hp rfl (by simp), State.valueAt, engine]
  · rintro rfl; rw [hostRead_idle_target _ .rxcount hp rfl (by simp), State.valueAt, engine]
  · rintro rfl; rw [hostRead_idle_target _ .draincnt hp rfl (by simp), State.valueAt, engine, BitVec.setWidth_eq]
  · rintro rfl; exact hostRead_idle_target _ .marker hp rfl (by simp)
  · exact fun k hk ha => hostRead_idle_entry (b := .tx) hp hk ha
  · exact fun k hk ha => hostRead_idle_entry (b := .frame) hp hk ha
  · exact fun k hk ha => hostRead_idle_entry (b := .rx) hp hk ha

/-- Settles O16: one target per clause; an engine-written register draws a value of its width. -/
theorem busyReads : Obligations.BusyReads := by
  intro s a hr hp
  have rdata := hostRead_rdata a s
  refine ⟨⟨s.valueAt (targetOf a), ?_⟩, ?_, ?_, ?_, ?_, ?_, ?_, ?_, ?_, ?_, ?_⟩
  · obtain ⟨h, _⟩ | ⟨h, _⟩ := hostRead_cases s a <;> rw [h, State.answer_of_busy hp]
    · exact .inl rfl
    · exact .inr rfl
  · intro bad
    rw [hostRead_of_bad hr bad]
    exact ⟨rfl, rfl⟩
  · intro aligned listed
    rw [hostRead_of_good (by simp [aligned, listed])]
    rfl
  · rintro rfl; exact rdata
  · rintro rfl
    have rdata : (hostRead 0x004 s).rdata = s.statusRead := rdata
    obtain ⟨busy, result, _, ovr, accerr, rest⟩ :=
      statusWord_layout s.busy s.result (if s.busy then (Config.freeRead s.draws).getLsbD 0 else s.trunc) s.ovr s.accerr
    rw [rdata]
    exact ⟨busy.trans (s.busy_iff.mpr hp), result, ovr, accerr, rest⟩
  · rintro rfl; exact rdata
  · rintro rfl; exact rdata
  · rintro rfl; exact rdata
  · intro k hk ha
    rw [rdata, targetOf_entry (b := .tx) hk ha]
    simp only [State.valueAt, State.readBuf]
    rw [if_pos (by exact hk)]
    rfl
  · rintro (rfl | rfl | rfl | h) <;> rw [rdata]
    · exact s.engineWritten_lt s.rxlen
    · exact s.engineWritten_lt s.cksum
    · exact s.engineWritten_lt s.rxck
    · exact valueAt_lt_of_buffer h
  · rintro (rfl | rfl) <;> rw [rdata]
    · exact s.engineWritten_lt s.framelen
    · exact s.engineWritten_lt s.rxcount

/-- Settles O17, by `statusWord_layout` and the code of each result. -/
theorem statusWordLayout : Obligations.StatusWordLayout := by
  intro s
  obtain ⟨busy, result, rest⟩ := statusWord_layout s.busy s.result s.trunc s.ovr s.accerr
  refine ⟨busy, result.trans ?_, rest⟩
  cases s.result <;> rfl

/-- Settles O30: every operation with a drain polls by `State.drainPoll`, which answers as `rxq` and the budget say. -/
theorem drainPollStep : Obligations.DrainPollStep := by
  intro i s hs hi
  have poll := (exec_of_drain hs hi).trans s.drainPoll_eq
  refine ⟨fun b q hq => ?_, fun hq late => ?_, fun hq early => ?_⟩
  · rw [poll, hq]; rfl
  · rw [hq] at poll
    have done : exec i s = .next s.drainDone := poll.trans (congrArg _ (if_pos late))
    rw [done, State.drainDone_eq]
    exact ⟨fun hn => by rw [hn], fun hn => by rw [hn]⟩
  · exact (exec_of_drain hs hi).trans (State.drainPoll_pending hq early)

/-- Settles O47: only the engine could stop, and its phase is one its operation has. -/
theorem invariantStepAnswers : Obligations.InvariantStepAnswers := by
  intro s h
  obtain ⟨a, d, hm⟩ := step_is_nextMove s
  rw [hm]
  exact takeMove_answers (h.of_unread s.rxq s.txq s.now s.rdata a d h.queue.2).engine _

/-- Settles O48, by the forms in which a move leaves buffer memory. -/
theorem stepKeepsMemoryCanonical : Obligations.StepKeepsMemoryCanonical := by
  intro s t hw h
  obtain ⟨a, d, h⟩ := step_leaves h
  exact h.wf hw

/-- Settles O49: issue, the engine and reset alone change the phase. -/
theorem phaseTransitionsLegal : Obligations.PhaseTransitionsLegal := by
  intro s t h
  obtain ⟨a, d, h⟩ := step_leaves h
  obtain h | ⟨_, _, h⟩ | ⟨_, h⟩ | ⟨_, _, _, hp, _, _, h⟩ := h.phase_cases
  · rw [h]; exact phaseMayGo_refl _
  · exact h
  · rw [h]; exact phaseMayGo_idle _
  · rw [h, show s.phase = .idle from hp]; rfl

/-- Settles O50, by the same four ways a phase changes. -/
theorem busyRisesAndFalls : Obligations.BusyRisesAndFalls := by
  intro s t h
  obtain ⟨a, d, h⟩ := step_leaves h
  simp only [State.busy_iff, State.busy_false_iff]
  obtain h | ⟨hm, hp, _⟩ | ⟨hm, h⟩ | ⟨w, i, hm, hp, hd, hc, ht⟩ := h.phase_cases
  · exact ⟨fun hs ht => absurd (h.trans hs) ht, fun hs ht => absurd (h.symm.trans ht) hs⟩
  · exact ⟨fun hs => absurd hs hp, fun _ _ => .inl hm⟩
  · exact ⟨fun _ ht => absurd h ht, fun _ _ => .inr hm⟩
  · exact ⟨fun _ _ => ⟨w, i, hm, hd, hc, ht⟩, fun hs => absurd hp hs⟩

/-- Settles O51, by `MoveLeaves.ovr` for the step's move. -/
theorem ovrSetAndCleared : Obligations.OvrSetAndCleared := by
  intro s t h
  obtain ⟨a, d, h⟩ := step_leaves h
  exact h.ovr

/-- Settles O52, by `MoveLeaves.accerr` for the step's move. -/
theorem accerrSetAndCleared : Obligations.AccerrSetAndCleared := by
  intro s t h
  obtain ⟨a, d, h⟩ := step_leaves h
  exact h.accerr

/-- Settles O54: `exec_outsideEngine` for the registers; of memory only FRAME or RXBUF is written, and both lie at or
above 0x800. -/
theorem engineLeavesHostRegisters : Obligations.EngineLeavesHostRegisters := by
  intro i s t hw h
  obtain ⟨ctrl, ovr, accerr, txlen, rxcap, now, _, params, _⟩ := OutsideEngine.mk.inj (exec_outsideEngine h)
  refine ⟨ctrl, txlen, rxcap, params, ovr, accerr, now, fun a ha => ?_⟩
  rcases (exec_microStep h).buffers.sameOutside hw with same | same
  · exact same a (.inl ha)
  · exact same a (.inl (ha.trans (by decide)))

/-- Settles O55, by the move: the engine (`MicroStep.link`), an arrival, the link's taking, or nothing. -/
theorem linkStreamsMoveByteByByte : Obligations.LinkStreamsMoveByteByByte := by
  intro s t h
  obtain ⟨a, d, h⟩ := step_leaves h
  generalize s.nextMove = m at h ⊢
  cases h with
  | runs i _ _ _ h =>
    obtain ⟨rx, tx⟩ := (exec_microStep h).link
    exact ⟨rx.imp id fun rx => .inl ⟨rfl, rx⟩, tx.imp id fun tx => .inl ⟨rfl, tx⟩⟩
  | writes a v h =>
    exact ⟨.inl (congrArg OutsideHost.rxq h.outsideHost), .inl (congrArg OutsideHost.txq h.outsideHost)⟩
  | arrives b lost hq =>
    refine ⟨.inr (.inr ⟨b, lost, rfl, fun _ => rfl, fun full => ?_⟩), .inl rfl⟩
    exact absurd hq (Nat.not_lt.mpr full)
  | arrivesFull b lost hq =>
    refine ⟨.inr (.inr ⟨b, lost, rfl, fun room => ?_, fun _ => ⟨_, Nat.min_le_right lost _, rfl⟩⟩), .inl rfl⟩
    exact absurd room (Nat.not_lt.mpr hq)
  | takes n => exact ⟨.inl rfl, .inr (.inr ⟨n, rfl, rfl⟩)⟩
  | _ => exact ⟨.inl rfl, .inl rfl⟩

/-- Settles O10: CTRL is the target and the engine is idle, so the word is issued and accepted. -/
theorem legalWordIsAccepted : Obligations.LegalWordIsAccepted :=
  fun _ _ _ hr hp hd => hostWrite_ctrl_of_idle hr hp hd

/-- Settles O45: `State.reset` is a reset state whose queue is cut to its depth. -/
theorem invariantAtReset : Obligations.InvariantAtReset :=
  State.reset_isReset.inv ⟨Nat.le_add_left 1 _, List.length_take_le _ _⟩

/-- Settles O60: the scheduled move is `State.setRst`, an equation of states. -/
theorem resetInputActs : Obligations.ResetInputActs := by
  intro s rest
  refine ⟨fun h => ?_, fun h => step_of_agenda s h⟩
  exact ⟨_, step_of_agenda s h, State.framerReset_isReset _, rfl, rfl, rfl, rfl, rfl, rfl, rfl, rfl, rfl⟩

end Sys2Proof.Machine

/-! SUPPORT. What a host write does at each class of address, what an encode and a whole transmission leave; and the
statements of 20_memory.md. -/

namespace Sys2Proof.Machine

variable {s : State} {i : Instr}

/-! ## Host writes by address -/

/-- A misaligned, reserved or read-only address is a bad access (rule R62, its first three lines; rule R255). -/
theorem hostWrite_of_bad {a : BusAddr} (v : Word) (hr : s.rst = false)
    (ha : a.toNat % 4 ≠ 0 ∨ isReservedAddr a = true ∨ isReadOnlyAddr a = true) :
    hostWrite a v s = s.accessError := by
  have at_a := targetOf_at a
  rw [hostWrite_of_released a v hr]
  generalize targetOf a = target at at_a ⊢
  cases target with
  | ctrl | status | txlen | rxcap => subst at_a; exact absurd ha (by decide)
  | entry b k =>
    cases b with
    | tx =>
      obtain ⟨hk, hka⟩ := at_a
      simp only [Buf.size, Buf.addr, Buf.base] at hk hka
      simp only [isReservedAddr_iff, isReadOnlyAddr, Bool.and_eq_true, Bool.or_eq_true, decide_eq_true_eq,
        beq_iff_eq] at ha
      omega
    | frame | rx => rfl
  | _ => rfl

/-- A protected address is written where BUSY = 0 alone (rules R62, R254). -/
theorem hostWrite_of_protected {a : BusAddr} (v : Word) (hr : s.rst = false) (ha : isProtectedAddr a = true) :
    ∃ t, hostWrite a v s = s.unlessBusy t := by
  rw [hostWrite_of_released a v hr]
  obtain rfl | rfl | rfl | ⟨k, hk, hka⟩ := (isProtectedAddr_iff a).mp ha
  · exact ⟨_, rfl⟩
  · exact ⟨_, rfl⟩
  · exact ⟨_, rfl⟩
  · exact ⟨s.setTxbuf k v, by rw [targetOf_entry (b := .tx) hk hka]; rfl⟩

theorem State.unlessBusy_of_busy (hp : s.phase ≠ .idle) (t : State) : s.unlessBusy t = s.overrun :=
  if_pos (s.busy_iff.mpr hp)

theorem hostWrite_of_busy {a : BusAddr} (v : Word) (hr : s.rst = false) (hp : s.phase ≠ .idle)
    (ha : isProtectedAddr a = true) : hostWrite a v s = s.overrun := by
  obtain ⟨t, h⟩ := hostWrite_of_protected v hr ha
  rw [h, State.unlessBusy_of_busy hp]

/-- Where BUSY = 0, a write has the effect its target guards. -/
theorem hostWrite_of_idle {a : BusAddr} {v : Word} {t : State} (hr : s.rst = false) (hp : s.phase = .idle)
    (h : s.writeAt v (targetOf a) = s.unlessBusy t) : hostWrite a v s = t := by
  rw [hostWrite_of_released a v hr, h, State.unlessBusy_of_idle hp]

/-- Fault bits are cleared where the written bit is 1 (rule R29). -/
theorem State.clearFaultBits_eq (s : State) (v : Word) :
    s.clearFaultBits v =
      { s with
        ovr := if v.getLsbD 5 then false else s.ovr
        accerr := if v.getLsbD 6 then false else s.accerr } := by
  have clear (bit written : Bool) : (bit && !written) = if written then false else bit := by
    cases written <;> simp
  rw [State.clearFaultBits, clear, clear]

/-- The low byte of a word (rule R21). -/
theorem setWidth_eq_lowByte (v : Word) : v.setWidth 8 = v.extractLsb' 0 8 :=
  BitVec.setWidth_eq_extractLsb' (by decide)

theorem State.setTxbuf_of_lt {k : Nat} (hk : k < 255) (v : Word) :
    s.setTxbuf k v = { s with mem := s.mem.write (Buf.addr .tx k) (v.setWidth 8) } := if_pos hk

/-! ## ENCODE -/

/-- The one micro-step of ENCODE, whatever the shape (rules R140 to R145). -/
theorem State.encodeOp_encodes (hs : s.phase = .start) (hm : s.mem.wf = true) (cmd : Byte) {p : List Byte}
    (hp : p.length ≤ 255) :
    ∃ t, s.encodeOp cmd p = .next t ∧ EncodedAs s t cmd p ∧
      t = { s with
        mem := t.mem, cksum := t.cksum, framelen := t.framelen
        result := .ok, phase := .idle, replyDue := false, drainNext := .finish } := by
  have encoded : EncodedAs s ((s.encodeFrame cmd p).raiseResult .ok) cmd p :=
    (State.encodeFrame_encodedAs hm cmd hp).congr rfl rfl rfl
  refine ⟨_, by rw [State.encodeOp, hs], encoded, ?_⟩
  obtain ⟨m, c, f, h⟩ := s.encodeFrame_fields cmd p
  rw [h]
  rfl

/-- ARG16 as two bytes, the high one first, is its quotient and remainder by 256 (rules R68, R94). -/
theorem payloadH_eq (arg : BitVec 16) :
    payloadH arg = [BitVec.ofNat 8 (arg.toNat / 256), BitVec.ofNat 8 (arg.toNat % 256)] := by
  have high : arg.extractLsb' 8 8 = BitVec.ofNat 8 (arg.toNat / 256) := by
    apply BitVec.eq_of_toNat_eq
    simp [Nat.shiftRight_eq_div_pow]
  have low : arg.extractLsb' 0 8 = BitVec.ofNat 8 (arg.toNat % 256) := by
    apply BitVec.eq_of_toNat_eq
    simp
  rw [payloadH, high, low]

/-! ## Transmission -/

theorem exec_of_tx_more (hs : s.phase = .tx) (hi : .tx ∈ phasesOf i) (hk : s.txIndex + 1 ≠ s.framelen.toNat) :
    exec i s = .next s.txByte := by
  rw [exec_of_tx hs hi, State.txStep, if_neg hk]

theorem exec_of_tx_last (hs : s.phase = .tx) (hi : .tx ∈ phasesOf i) (hk : s.txIndex + 1 = s.framelen.toNat) :
    exec i s = .next s.txByte.txDone := by
  rw [exec_of_tx hs hi, State.txStep, if_pos hk]

/-- `k` bytes were sent from FRAME[e.k] on: `txq` and `e.k` changed (rule R162). -/
def State.txBytes (s : State) (k : Nat) : State :=
  { s with
    txq := s.txq ++ (List.range' s.txIndex k).map (s.readBuf .frame)
    txIndex := s.txIndex + k }

theorem State.txBytes_zero (s : State) : s.txBytes 0 = s := by simp [State.txBytes]

/-- Sending writes no buffer entry, so one more byte is the next one of the same FRAME. -/
theorem State.txByte_txBytes (s : State) (k : Nat) : (s.txBytes k).txByte = s.txBytes (k + 1) := by
  have sent : (List.range' s.txIndex (k + 1)).map (s.readBuf .frame) =
      (List.range' s.txIndex k).map (s.readBuf .frame) ++ [s.readBuf .frame (s.txIndex + k)] := by
    simp [List.range'_concat]
  rw [State.txByte_eq, State.txBytes, State.txBytes, sent, ← List.append_assoc]
  rfl

/-- `k` micro-steps of TX short of the last byte. -/
theorem RunsTo.txBytes (hs : s.phase = .tx) (hr : s.rst = false) (hd : decode s.ctrl = .ok i)
    (hi : .tx ∈ phasesOf i) (k : Nat) (hk : s.txIndex + k < s.framelen.toNat) :
    RunsTo (List.replicate k .engine) s (s.txBytes k) := by
  have busy : s.phase ≠ .idle := by simp [hs]
  induction k with
  | zero => rw [s.txBytes_zero]; exact .nil s
  | succ k ih =>
    have more : exec i (s.txBytes k) = .next (s.txBytes (k + 1)) := by
      rw [← s.txByte_txBytes k]
      exact exec_of_tx_more hs hi (Nat.ne_of_lt hk)
    rw [List.replicate_succ']
    exact (ih (by omega)).append (.engine busy hr hd more)

/-- The whole TX phase: FRAME[0 .. FRAMELEN-1] goes out, and the last micro-step goes on as `txDone` (rules R162,
R164). -/
theorem RunsTo.transmit (hs : s.phase = .tx) (hr : s.rst = false) (hd : decode s.ctrl = .ok i)
    (hi : .tx ∈ phasesOf i) (h0 : s.txIndex = 0) (hf : s.framelen ≠ 0) :
    RunsTo (List.replicate s.framelen.toNat .engine) s (s.txBytes s.framelen.toNat).txDone := by
  have busy : s.phase ≠ .idle := by simp [hs]
  have positive : s.framelen.toNat ≠ 0 := fun h => hf (BitVec.eq_of_toNat_eq h)
  obtain ⟨n, hn⟩ := Nat.exists_eq_succ_of_ne_zero positive
  have last : exec i (s.txBytes n) = .next (s.txBytes (n + 1)).txDone := by
    rw [← s.txByte_txBytes n]
    exact exec_of_tx_last hs hi (show s.txIndex + n + 1 = s.framelen.toNat by omega)
  rw [hn, List.replicate_succ']
  exact (RunsTo.txBytes hs hr hd hi n (by omega)).append (.engine busy hr hd last)

/-! ## The statements of 20_memory.md -/

/-- Settles O13: one lemma per class of address, and while idle a protected target takes the write. -/
theorem hostWriteEffects : Obligations.HostWriteEffects := by
  intro s a v hr
  refine ⟨fun bad => ?_, ?_, fun prot hp => ?_, fun hp => ⟨?_, ?_, ?_, fun k hk ha => ?_⟩⟩
  · rw [hostWrite_of_bad v hr bad]; rfl
  · rintro rfl
    exact (hostWrite_of_released _ v hr).trans (s.clearFaultBits_eq v)
  · rw [hostWrite_of_busy v hr hp prot]; rfl
  · rintro rfl; exact hostWrite_of_idle hr hp rfl
  · rintro rfl; rw [← setWidth_eq_lowByte]; exact hostWrite_of_idle hr hp rfl
  · rintro rfl; rw [← setWidth_eq_lowByte]; exact hostWrite_of_idle hr hp rfl
  · rw [← setWidth_eq_lowByte, hostWrite_txbuf_of_idle hr hp hk ha, State.setTxbuf_of_lt hk]
    rfl

/-- Settles O22: each shape is `State.encodeOp` on its payload. -/
theorem encodeShapesBuildFrame : Obligations.EncodeShapesBuildFrame := by
  intro s cmd i p hs hm shape
  obtain ⟨rfl, rfl⟩ | ⟨arg, rfl, rfl⟩ | ⟨arg, rfl, rfl⟩ := shape
  · exact State.encodeOp_encodes hs hm cmd (p := payloadZ) (by simp [payloadZ])
  · exact State.encodeOp_encodes hs hm cmd (p := payloadB arg) (by simp [payloadB])
  · rw [← payloadH_eq]
    exact State.encodeOp_encodes hs hm cmd (by simp [payloadH])

/-- Settles O40: `RunsTo.transmit` from `e.k` = 0, and with no reply due `txDone` raises OK. -/
theorem transmitWritesWholeFrame : Obligations.TransmitWritesWholeFrame := by
  intro s i rest hs hd hi hr hn h0 hf ha
  have run := (RunsTo.transmit hs hr hd hi h0 hf).run ha
  have done : (s.txBytes s.framelen.toNat).txDone = (s.txBytes s.framelen.toNat).raiseResult .ok :=
    if_neg (by simp [State.txBytes, hn])
  rw [List.length_replicate, done] at run
  rw [run]
  simp [State.txBytes, State.raiseResult, State.withAgenda, hn, h0, List.range_eq_range']

end Sys2Proof.Machine

/-! SUPPORT. Operation words, field by field: what the decoder accepts, said once as an inductive, and the opcode map
read through the fields. -/

namespace Sys2Proof

variable {f g : OpWord} {i : Instr} {w v : Word}

/-! ## Fields and words -/

/-- A word is its fields laid out (rule R90). -/
theorem OpWord.toWord_ofWord (w : Word) : (OpWord.ofWord w).toWord = w := by
  apply BitVec.eq_of_getLsbD_eq
  intro k hk
  simp only [OpWord.toWord, OpWord.ofWord, BitVec.getLsbD_append, BitVec.getLsbD_extractLsb']
  grind

theorem OpWord.ofWord_inj : OpWord.ofWord w = OpWord.ofWord v ↔ w = v :=
  ⟨fun h => by rw [← OpWord.toWord_ofWord w, h, OpWord.toWord_ofWord], fun h => h ▸ rfl⟩

/-- The bits two tuples of fields have in common. -/
def OpWord.and (f g : OpWord) : OpWord :=
  ⟨f.arg &&& g.arg, f.cmd &&& g.cmd, f.rsv &&& g.rsv, f.rply &&& g.rply, f.shape &&& g.shape, f.op &&& g.op⟩

theorem OpWord.ofWord_and (w v : Word) :
    OpWord.ofWord (w &&& v) = (OpWord.ofWord w).and (OpWord.ofWord v) := by
  simp only [OpWord.ofWord, OpWord.and, BitVec.extractLsb'_and]

/-- A word masked by `m` is compared with another field by field. -/
theorem OpWord.and_eq_iff (w v m : Word) :
    w &&& m = v ↔ (OpWord.ofWord w).and (OpWord.ofWord m) = OpWord.ofWord v := by
  rw [← OpWord.ofWord_and, OpWord.ofWord_inj]

/-- Fields with RSV = 0 shifted into place (rules R90, R103). -/
theorem OpWord.toWord_eq_shifts (h : f.rsv = 0) :
    f.toWord = (f.arg.setWidth 32 <<< 16) ||| (f.cmd.setWidth 32 <<< 8) ||| (f.rply.setWidth 32 <<< 6) |||
      (f.shape.setWidth 32 <<< 4) ||| f.op.setWidth 32 := by
  apply BitVec.eq_of_getLsbD_eq
  intro k hk
  simp only [OpWord.toWord, h, BitVec.getLsbD_append, BitVec.getLsbD_or, BitVec.getLsbD_shiftLeft,
    BitVec.getLsbD_setWidth]
  grind

/-- A field of one bit is that bit. -/
theorem extractLsb'_one_eq_zero_iff (w : Word) (k : Nat) : w.extractLsb' k 1 = 0 ↔ w.getLsbD k = false := by
  simp [BitVec.eq_of_getLsbD_eq_iff]

/-! ## The decoder -/

/-- The tuples of fields that decode, each with its operation; a variable stands for a field that is an operand or is
ignored (rules R91, R94, R97, R98). -/
inductive OpWord.Decodes : OpWord → Instr → Prop where
  | encodeBuf (arg : BitVec 16) (cmd : Byte) : Decodes ⟨arg, cmd, 0, 0, 0, 1⟩ (.encodeBuf cmd)
  | encodeZ (arg : BitVec 16) (cmd : Byte) : Decodes ⟨arg, cmd, 0, 0, 1, 1⟩ (.encodeZ cmd)
  | encodeB (arg : BitVec 16) (cmd : Byte) : Decodes ⟨arg, cmd, 0, 0, 2, 1⟩ (.encodeB cmd (arg.setWidth 8))
  | encodeH (arg : BitVec 16) (cmd : Byte) : Decodes ⟨arg, cmd, 0, 0, 3, 1⟩ (.encodeH cmd arg)
  | transactBuf (arg : BitVec 16) (cmd : Byte) (rply : BitVec 1) :
      Decodes ⟨arg, cmd, 0, rply, 0, 2⟩ (.transactBuf (rply == 1) cmd)
  | transactZ (arg : BitVec 16) (cmd : Byte) (rply : BitVec 1) :
      Decodes ⟨arg, cmd, 0, rply, 1, 2⟩ (.transactZ (rply == 1) cmd)
  | transactB (arg : BitVec 16) (cmd : Byte) (rply : BitVec 1) :
      Decodes ⟨arg, cmd, 0, rply, 2, 2⟩ (.transactB (rply == 1) cmd (arg.setWidth 8))
  | transactH (arg : BitVec 16) (cmd : Byte) (rply : BitVec 1) :
      Decodes ⟨arg, cmd, 0, rply, 3, 2⟩ (.transactH (rply == 1) cmd arg)
  | drain (arg : BitVec 16) (cmd : Byte) : Decodes ⟨arg, cmd, 0, 0, 0, 3⟩ .drain
  | send (arg : BitVec 16) (cmd : Byte) : Decodes ⟨arg, cmd, 0, 0, 0, 4⟩ .send
  | receive (arg : BitVec 16) (cmd : Byte) : Decodes ⟨arg, cmd, 0, 0, 0, 5⟩ .receive
  | waitbyte (arg : BitVec 16) (cmd : Byte) : Decodes ⟨arg, cmd, 0, 0, 0, 6⟩ (.waitbyte arg)

theorem OpWord.Decodes.decode (h : f.Decodes i) : f.decode = .ok i := by cases h <;> rfl

theorem OpWord.shape_cases (x : BitVec 2) : x = 0 ∨ x = 1 ∨ x = 2 ∨ x = 3 := by revert x; decide

/-- What the decoder accepts is legal (rule R97). -/
theorem OpWord.legal_of_decode (h : f.decode = .ok i) :
    (1 ≤ f.op.toNat ∧ f.op.toNat ≤ 6) ∧ f.rsv = 0 ∧ (f.op.toNat ≠ 2 → f.rply = 0) ∧
      (3 ≤ f.op.toNat → f.shape = 0) := by
  unfold OpWord.decode at h
  split at h
  · have rply {r : Except DecodeError Instr} (h : f.unreplied r = .ok i) : f.rply = 0 ∧ r = .ok i := by
      unfold OpWord.unreplied at h
      split at h
      · exact ⟨‹_›, h⟩
      · cases h
    have shape {j : Instr} (h : f.unshaped j = .ok i) : f.shape = 0 := by
      unfold OpWord.unshaped at h
      split at h
      · assumption
      · cases h
    split at h <;> grind
  · cases h

/-- The legality conditions are enough to decode (rule R97). -/
theorem OpWord.decodes_of_legal (known : 1 ≤ f.op.toNat ∧ f.op.toNat ≤ 6) (rsv : f.rsv = 0)
    (rply : f.op.toNat ≠ 2 → f.rply = 0) (shape : 3 ≤ f.op.toNat → f.shape = 0) : ∃ i, f.Decodes i := by
  obtain ⟨arg, cmd, rs, rp, sh, op⟩ := f
  simp only at known rsv rply shape
  subst rsv
  have split : op = 1 ∨ op = 2 ∨ op = 3 ∨ op = 4 ∨ op = 5 ∨ op = 6 := by clear rply shape; revert op; decide
  rcases split with rfl | rfl | rfl | rfl | rfl | rfl
  · obtain rfl := rply (by decide)
    rcases OpWord.shape_cases sh with rfl | rfl | rfl | rfl
    · exact ⟨_, .encodeBuf arg cmd⟩
    · exact ⟨_, .encodeZ arg cmd⟩
    · exact ⟨_, .encodeB arg cmd⟩
    · exact ⟨_, .encodeH arg cmd⟩
  · rcases OpWord.shape_cases sh with rfl | rfl | rfl | rfl
    · exact ⟨_, .transactBuf arg cmd rp⟩
    · exact ⟨_, .transactZ arg cmd rp⟩
    · exact ⟨_, .transactB arg cmd rp⟩
    · exact ⟨_, .transactH arg cmd rp⟩
  all_goals
    obtain rfl := rply (by decide)
    obtain rfl := shape (by decide)
  · exact ⟨_, .drain arg cmd⟩
  · exact ⟨_, .send arg cmd⟩
  · exact ⟨_, .receive arg cmd⟩
  · exact ⟨_, .waitbyte arg cmd⟩

theorem OpWord.decode_eq_ok_iff : f.decode = .ok i ↔ f.Decodes i := by
  refine ⟨fun h => ?_, OpWord.Decodes.decode⟩
  obtain ⟨known, rsv, rply, shape⟩ := OpWord.legal_of_decode h
  obtain ⟨j, hj⟩ := OpWord.decodes_of_legal known rsv rply shape
  obtain rfl : j = i := Except.ok.inj (hj.decode.symm.trans h)
  exact hj

theorem decode_eq_ok_iff : decode w = .ok i ↔ (OpWord.ofWord w).Decodes i := OpWord.decode_eq_ok_iff

/-- The assembled fields decode to their operation (rule R103). -/
theorem Instr.fields_decode (i : Instr) : i.fields.decode = .ok i := by
  have arg8 (arg : Byte) : (arg.setWidth 16).setWidth 8 = arg := by simp
  cases i with
  | encodeB cmd arg => exact congrArg (fun a => Except.ok (Instr.encodeB cmd a)) (arg8 arg)
  | transactB rply cmd arg =>
    cases rply <;> exact congrArg (fun a => Except.ok (Instr.transactB _ cmd a)) (arg8 arg)
  | transactBuf rply | transactZ rply | transactH rply => cases rply <;> rfl
  | _ => rfl

theorem decode_encode (i : Instr) : decode (encode i) = .ok i := (decode_toWord i.fields).trans i.fields_decode

/-- Assembling sets RPLY exactly where a reply is expected, and never RSV (rules R90, R103). -/
theorem Instr.fields_rply_rsv (i : Instr) : i.fields.rply = BitVec.ofBool i.expectsReply ∧ i.fields.rsv = 0 := by
  cases i <;> exact ⟨rfl, rfl⟩

/-! ## The opcode map -/

/-- An operation's row of the opcode map (rule R102). -/
def Instr.row : Instr → OpcodeRow
  | .encodeBuf _       => opcodeTable[0]
  | .encodeZ _         => opcodeTable[1]
  | .encodeB _ _       => opcodeTable[2]
  | .encodeH _ _       => opcodeTable[3]
  | .transactBuf _ _   => opcodeTable[4]
  | .transactZ _ _     => opcodeTable[5]
  | .transactB _ _ _   => opcodeTable[6]
  | .transactH _ _ _   => opcodeTable[7]
  | .drain             => opcodeTable[8]
  | .send              => opcodeTable[9]
  | .receive           => opcodeTable[10]
  | .waitbyte _        => opcodeTable[11]

theorem Instr.row_mem (i : Instr) : i.row ∈ opcodeTable := by cases i <;> exact List.getElem_mem _

theorem Instr.row_mnemonic (i : Instr) : i.row.mnemonic = i.mnemonic := by cases i <;> rfl

/-- A row matches a word on RSV, SHAPE and OP at least, and the value it has there is the whole of its own. -/
theorem OpcodeRow.value_of_covers {r : OpcodeRow} (hr : r ∈ opcodeTable) (h : r.covers w = true) :
    r.value = w &&& 0xBF := by
  have table : ∀ r ∈ opcodeTable, r.value &&& 0xBF = r.value ∧ r.mask &&& 0xBF = 0xBF := by decide
  obtain ⟨value, mask⟩ := table r hr
  rw [← value, ← beq_iff_eq.mp h, BitVec.and_assoc, mask]

/-- No two rows match one word, as no two have the same value (rule R102). -/
theorem OpcodeRow.eq_of_covers {q r : OpcodeRow} (hq : q ∈ opcodeTable) (hr : r ∈ opcodeTable)
    (hqw : q.covers w = true) (hrw : r.covers w = true) : q = r := by
  have table : ∀ q ∈ opcodeTable, ∀ r ∈ opcodeTable, q.value = r.value → q = r := by decide
  exact table q hq r hr ((OpcodeRow.value_of_covers hq hqw).trans (OpcodeRow.value_of_covers hr hrw).symm)

/-- A row matches a word as its mask and value match the word's fields. -/
theorem OpcodeRow.covers_iff (r : OpcodeRow) (w : Word) :
    r.covers w = true ↔ (OpWord.ofWord w).and (OpWord.ofWord r.mask) = OpWord.ofWord r.value := by
  rw [OpcodeRow.covers, beq_iff_eq, OpWord.and_eq_iff]

/-- A word is matched by the row of its operation (rule R102). -/
theorem row_covers_of_decode (h : decode w = .ok i) : i.row.covers w = true := by
  have h := decode_eq_ok_iff.mp h
  rw [OpcodeRow.covers_iff]
  generalize OpWord.ofWord w = f at h ⊢
  cases h <;> simp [Instr.row, opcodeTable, OpWord.ofWord, OpWord.and]

/-- The bits of each field that an operation's row does not ignore (rules R98, R102). -/
def Instr.careFields : Instr → OpWord
  | .encodeBuf _ | .encodeZ _ | .transactBuf _ _ | .transactZ _ _ =>
    ⟨0, .allOnes 8, .allOnes 1, .allOnes 1, .allOnes 2, .allOnes 4⟩
  | .encodeB _ _ | .transactB _ _ _ => ⟨0xFF, .allOnes 8, .allOnes 1, .allOnes 1, .allOnes 2, .allOnes 4⟩
  | .encodeH _ _ | .transactH _ _ _ =>
    ⟨.allOnes 16, .allOnes 8, .allOnes 1, .allOnes 1, .allOnes 2, .allOnes 4⟩
  | .drain | .send | .receive => ⟨0, 0, .allOnes 1, .allOnes 1, .allOnes 2, .allOnes 4⟩
  | .waitbyte _ => ⟨.allOnes 16, 0, .allOnes 1, .allOnes 1, .allOnes 2, .allOnes 4⟩

theorem Instr.ofWord_row_care (i : Instr) : OpWord.ofWord i.row.care = i.careFields := by
  cases i <;> (simp only [Instr.row, Instr.careFields]; decide)

/-- ARG8 is all of ARG that a B shape reads (rule R95). -/
theorem setWidth_eq_of_lowByte_eq {x y : BitVec 16} (h : x &&& 0xFF = y &&& 0xFF) :
    x.setWidth 8 = y.setWidth 8 := by
  have low (z : BitVec 16) : (z &&& 0xFF).setWidth 8 = z.setWidth 8 := by
    rw [BitVec.setWidth_and]
    exact BitVec.and_allOnes
  rw [← low x, h, low y]

theorem setWidth_and_lowByte (arg : Byte) : arg.setWidth 16 &&& 0xFF = arg.setWidth 16 := by
  apply BitVec.eq_of_toNat_eq
  have h : arg.toNat < 2 ^ 8 := arg.isLt
  rw [BitVec.toNat_and, BitVec.toNat_setWidth_of_le (by decide)]
  exact (Nat.and_two_pow_sub_one_eq_mod _ 8).trans (Nat.mod_eq_of_lt h)

/-- Fields that agree on the bits a row does not ignore are the same operation (rule R98). -/
theorem OpWord.Decodes.of_care (h : f.Decodes i) (agree : g.and i.careFields = f.and i.careFields) :
    g.Decodes i := by
  obtain ⟨arg, cmd, rsv, rply, shape, op⟩ := g
  cases h <;>
    simp only [Instr.careFields, OpWord.and, BitVec.and_allOnes, OpWord.mk.injEq] at agree <;>
    obtain ⟨harg, hcmd, rfl, rfl, rfl, rfl⟩ := agree
  case encodeBuf => exact hcmd ▸ .encodeBuf arg cmd
  case encodeZ => exact hcmd ▸ .encodeZ arg cmd
  case encodeB => exact hcmd ▸ setWidth_eq_of_lowByte_eq harg ▸ .encodeB arg cmd
  case encodeH => exact hcmd ▸ harg ▸ .encodeH arg cmd
  case transactBuf => exact hcmd ▸ .transactBuf arg cmd rply
  case transactZ => exact hcmd ▸ .transactZ arg cmd rply
  case transactB => exact hcmd ▸ setWidth_eq_of_lowByte_eq harg ▸ .transactB arg cmd rply
  case transactH => exact hcmd ▸ harg ▸ .transactH arg cmd rply
  case drain => exact .drain arg cmd
  case send => exact .send arg cmd
  case receive => exact .receive arg cmd
  case waitbyte => exact harg ▸ .waitbyte arg cmd

/-- An assembled word has no bit its row ignores (rule R103). -/
theorem encode_and_care (i : Instr) : encode i &&& i.row.care = encode i := by
  rw [OpWord.and_eq_iff, encode, OpWord.ofWord_toWord, i.ofWord_row_care]
  cases i <;>
    simp only [Instr.careFields, OpWord.and, BitVec.and_allOnes, BitVec.and_self, Instr.fields, setWidth_and_lowByte]

end Sys2Proof

/-! SUPPORT. A request from START until its frame is out; a reception byte by byte and what it leaves; and the
statements of 30_encoding.md. -/

namespace Sys2Proof.Machine

variable {s t u v : State} {i : Instr} {rply : Bool} {cmd : Byte} {p : List Byte}

/-! ## Buffers -/

/-- TXBUF[0 .. TXLEN-1] lies at its window addresses, since TXLEN is at most 255 (rules R22, R94). -/
theorem State.payloadBuf_eq (s : State) :
    s.payloadBuf = (List.range s.txlen.toNat).map fun k => s.mem.read (0x400 + 4 * k) :=
  List.map_congr_left fun k hk => by
    have hk : k < 255 := by
      have h := s.txlen.isLt
      have := List.mem_range.mp hk
      omega
    exact if_pos hk

theorem State.payloadBuf_length_le (s : State) : s.payloadBuf.length ≤ 255 := by
  rw [s.payloadBuf_length]
  exact Nat.le_of_lt_succ s.txlen.isLt

/-- The buffers do not overlap (rule R22). -/
theorem SameOutside.readBuf_eq {b c : Buf} (h : SameOutside b s t) (hc : c ≠ b) (j : Nat) :
    t.readBuf c j = s.readBuf c j := by
  unfold State.readBuf
  split
  · refine h _ ?_
    cases b <;> cases c <;> simp [Buf.addr, Buf.base, Buf.size] at * <;> omega
  · rfl

/-- Reading a list's places in order gives the list. -/
theorem map_range_getD (l : List Byte) : (List.range l.length).map (fun j => l.getD j 0) = l := by
  refine List.ext_getElem (by simp) fun j _ hj => ?_
  simp [List.getElem?_eq_getElem hj]

/-! ## Polls past their budget -/

theorem State.drainPoll_expired (hq : s.rxq = []) (h : s.budget.toNat < s.elapsed.toNat) :
    s.drainPoll = .next s.drainDone := by
  rw [State.drainPoll_eq, hq]; exact congrArg _ (if_pos h)

theorem State.rxPoll_expired (hq : s.rxq = []) (h : s.budget.toNat < s.elapsed.toNat) :
    s.rxPoll = .next (s.failReceive .timeout) := by
  rw [State.rxPoll_eq, hq]; exact congrArg _ (if_pos h)

/-- `k` ms pass, and the engine moves. -/
theorem RunsTo.ticksEngine (k : Nat) (hp : s.phase ≠ .idle) (hr : s.rst = false) (hd : decode s.ctrl = .ok i)
    (h : exec i { s with now := s.now + BitVec.ofNat 32 k } = .next t) :
    RunsTo (List.replicate k .clock ++ [.engine]) s t :=
  (RunsTo.ticks k s).append (.engine (s := { s with now := s.now + BitVec.ofNat 32 k }) hp hr hd h)

/-- A wait with this budget has just begun, and the queue is empty (rule R180). -/
structure State.Waits (v : State) (T : BitVec 16) : Prop where
  rxq    : v.rxq = []
  t0     : v.t0 = v.now
  budget : v.budget = T

/-- A drain of a silent link, from the beginning of a probe: T_DRAIN + 1 ms and one poll (rules R160, R181). -/
theorem RunsTo.drainSilence (hs : s.phase = .drain) (hr : s.rst = false) (hd : decode s.ctrl = .ok i)
    (hi : .drain ∈ phasesOf i) (hv : s.Waits s.params.tDrain) :
    RunsTo (List.replicate (s.params.tDrain.toNat + 1) .clock ++ [.engine]) s
      { s with now := s.now + BitVec.ofNat 32 (s.params.tDrain.toNat + 1) }.drainDone := by
  refine .ticksEngine _ (by simp [hs]) hr hd ((exec_of_drain (by exact hs) hi).trans ?_)
  exact State.drainPoll_expired (by exact hv.rxq)
    (by simpa only [hv.budget] using State.elapsed_past s.params.tDrain hv.t0)

/-- No byte within a wait of the RX phase: its budget, one ms more, and one poll (rules R181, R208). -/
theorem RunsTo.rxSilence {T : BitVec 16} (hs : s.phase = .rx) (hr : s.rst = false) (hd : decode s.ctrl = .ok i)
    (hi : .rx ∈ phasesOf i) (hv : s.Waits T) :
    RunsTo (List.replicate (T.toNat + 1) .clock ++ [.engine]) s
      ({ s with now := s.now + BitVec.ofNat 32 (T.toNat + 1) }.failReceive .timeout) := by
  refine .ticksEngine _ (by simp [hs]) hr hd ((exec_of_rx (by exact hs) hi).trans ?_)
  exact State.rxPoll_expired (by exact hv.rxq) (by simpa only [hv.budget] using State.elapsed_past T hv.t0)

/-! ## A request -/

/-- `i` is a TRANSACT with this RPLY, command and payload (rules R231 to R235). -/
structure IsTransact (s : State) (i : Instr) (rply : Bool) (cmd : Byte) (p : List Byte) : Prop where
  length : p.length ≤ 255
  start  : s.phase = .start → exec i s = .next (s.transactStart rply cmd p)
  phases : phasesOf i = if rply then [.start, .drain, .tx, .rx] else [.start, .drain, .tx]

theorem IsTransact.drain_mem (h : IsTransact s i rply cmd p) : .drain ∈ phasesOf i := by
  rw [h.phases]; split <;> decide

theorem IsTransact.tx_mem (h : IsTransact s i rply cmd p) : .tx ∈ phasesOf i := by
  rw [h.phases]; split <;> decide

theorem IsTransact.rx_mem (h : IsTransact s i true cmd p) : .rx ∈ phasesOf i := by
  rw [h.phases]; decide

theorem isTransact_of_shape
    (h : (i = .transactBuf rply cmd ∧
        p = (List.range s.txlen.toNat).map fun k => s.mem.read (0x400 + 4 * k)) ∨
      (i = .transactZ rply cmd ∧ p = []) ∨
      (∃ arg, i = .transactB rply cmd arg ∧ p = [arg]) ∨
      (∃ arg : BitVec 16, i = .transactH rply cmd arg ∧
        p = [BitVec.ofNat 8 (arg.toNat / 256), BitVec.ofNat 8 (arg.toNat % 256)])) :
    IsTransact s i rply cmd p := by
  have start {q : List Byte} (hs : s.phase = .start) :
      s.transactOp rply cmd q = .next (s.transactStart rply cmd q) := by rw [State.transactOp, hs]
  obtain ⟨rfl, rfl⟩ | ⟨rfl, rfl⟩ | ⟨arg, rfl, rfl⟩ | ⟨arg, rfl, rfl⟩ := h
  · rw [← s.payloadBuf_eq]; exact ⟨s.payloadBuf_length_le, start, rfl⟩
  · exact ⟨by simp, start, rfl⟩
  · exact ⟨by simp, start, rfl⟩
  · rw [← payloadH_eq]; exact ⟨by simp [payloadH], start, rfl⟩

/-- START of TRANSACT as one record (rules R140, R160, R235). -/
def State.requestEncoded (s : State) (rply : Bool) (cmd : Byte) (p : List Byte) : State :=
  { s with
    mem := (s.encodeFrame cmd p).mem, cksum := ck (frameBody s.params.marker cmd p)
    framelen := BitVec.ofNat 9 (p.length + 4), replyDue := rply
    draincnt := 0, drainNext := .transmit, t0 := s.now, budget := s.params.tDrain, phase := .drain }

/-- The request encoded and a silent link drained: the first byte goes out next (rule R160). -/
def State.requestDrained (s : State) (rply : Bool) (cmd : Byte) (p : List Byte) : State :=
  { s.requestEncoded rply cmd p with
    now := s.now + BitVec.ofNat 32 (s.params.tDrain.toNat + 1), txIndex := 0, phase := .tx }

/-- The last byte of the request just out (rule R162), as one record. -/
def State.requestOut (s : State) (rply : Bool) (cmd : Byte) (p : List Byte) : State :=
  { s with
    mem := (s.encodeFrame cmd p).mem, cksum := ck (frameBody s.params.marker cmd p)
    framelen := BitVec.ofNat 9 (p.length + 4), replyDue := rply
    draincnt := 0, drainNext := .transmit, t0 := s.now, budget := s.params.tDrain, phase := .tx
    now := s.now + BitVec.ofNat 32 (s.params.tDrain.toNat + 1)
    txq := s.txq ++ frameOf s.params.marker cmd p, txIndex := p.length + 4 }

theorem State.transactStart_eq (hm : s.mem.wf = true) (hp : p.length ≤ 255) :
    s.transactStart rply cmd p = s.requestEncoded rply cmd p := by
  obtain ⟨_, _, _, he⟩ := State.encodeFrame_spec hm cmd hp
  rw [State.transactStart, he]
  rfl

theorem framelen_toNat (hp : p.length ≤ 255) : (BitVec.ofNat 9 (p.length + 4)).toNat = p.length + 4 :=
  (BitVec.toNat_ofNat _ _).trans (Nat.mod_eq_of_lt (by omega))

/-- The bytes of FRAME that go out are the wire frame (rules R92, R162). -/
theorem State.requestDrained_txBytes (hm : s.mem.wf = true) (hp : p.length ≤ 255) :
    (s.requestDrained rply cmd p).txBytes (p.length + 4) = s.requestOut rply cmd p := by
  obtain ⟨frame, _, _, _⟩ := State.encodeFrame_spec hm cmd hp
  have bytes : (List.range' 0 (p.length + 4)).map ((s.requestDrained rply cmd p).readBuf .frame) =
      frameOf s.params.marker cmd p := by
    rw [← frameOf_length s.params.marker cmd p, ← List.range_eq_range']
    exact (List.map_congr_left fun j _ => frame j).trans (map_range_getD _)
  rw [State.txBytes, show (s.requestDrained rply cmd p).txIndex = 0 from rfl, bytes, Nat.zero_add]
  rfl

/-- A TRANSACT from START until its request is out: the encoder, the drain, and FRAMELEN bytes (rule R235). -/
theorem RunsTo.request (h : IsTransact s i rply cmd p) (hs : s.phase = .start) (hd : decode s.ctrl = .ok i)
    (hr : s.rst = false) (hq : s.rxq = []) (hm : s.mem.wf = true) :
    RunsTo (sendMoves s.params (p.length + 4)) s (s.requestOut rply cmd p).txDone := by
  have hlen : (s.requestDrained rply cmd p).framelen.toNat = p.length + 4 := framelen_toNat h.length
  have encode : RunsTo [.engine] s (s.requestEncoded rply cmd p) :=
    .engine (by simp [hs]) hr hd (by rw [h.start hs, State.transactStart_eq hm h.length])
  have drain := RunsTo.drainSilence (s := s.requestEncoded rply cmd p) rfl hr hd h.drain_mem ⟨hq, rfl, rfl⟩
  have transmit := RunsTo.transmit (s := s.requestDrained rply cmd p) rfl hr hd h.tx_mem rfl fun h0 => by
    rw [h0] at hlen
    exact absurd hlen (by simp)
  rw [hlen, State.requestDrained_txBytes hm h.length] at transmit
  have run := encode.append (drain.append transmit)
  rwa [List.append_assoc] at run

/-! ## What a reception leaves -/

/-- The part of State that neither the RX phase nor the passing of time writes and that a claim about a request speaks
of (rules R22, R200 to R210). -/
structure OutsideReception where
  ctrl     : Word
  ovr      : Bool
  accerr   : Bool
  txlen    : Byte
  rxcap    : Byte
  framelen : BitVec 9
  draincnt : Word
  txq      : List Byte
  rst      : Bool
  params   : Params

/-- The part of a state that no reception writes. -/
def State.outsideReception (s : State) : OutsideReception where
  ctrl     := s.ctrl
  ovr      := s.ovr
  accerr   := s.accerr
  txlen    := s.txlen
  rxcap    := s.rxcap
  framelen := s.framelen
  draincnt := s.draincnt
  txq      := s.txq
  rst      := s.rst
  params   := s.params

theorem State.requestOut_wf (hm : s.mem.wf = true) (hp : p.length ≤ 255) :
    (s.requestOut rply cmd p).mem.wf = true := by
  obtain ⟨_, _, wf, _⟩ := State.encodeFrame_spec hm cmd hp
  exact wf

/-- A state that keeps what a reception keeps, idle with an empty queue, has the request sent. -/
theorem RequestSent.of_reception (hm : s.mem.wf = true) (hp : p.length ≤ 255)
    (kept : t.outsideReception = (s.requestOut rply cmd p).outsideReception)
    (outside : SameOutside .rx (s.requestOut rply cmd p) t) (hi : t.phase = .idle) (hq : t.rxq = []) :
    RequestSent s t cmd p := by
  obtain ⟨frame, others, _, _⟩ := State.encodeFrame_spec hm cmd hp
  obtain ⟨ctrl, ovr, accerr, txlen, rxcap, framelen, draincnt, txq, _, _⟩ := OutsideReception.mk.inj kept
  refine ⟨txq, fun j => ?_, ?_, draincnt, hi, hq, ctrl, txlen, rxcap, ovr, accerr, fun j => ?_⟩
  · rw [outside.readBuf_eq (by simp)]
    exact frame j
  · rw [framelen]
    exact framelen_toNat hp
  · rw [outside.readBuf_eq (by simp)]
    exact others .tx j (by simp)

/-! ## Receiving a frame -/

variable {m e b c : Byte} {r : List Byte} {k : Nat}

/-- A reception that ReceiveEnter began in `u` has, in `v`, taken the first `k` bytes of a frame with marker `m`, echo
`e` and payload `r` (rules R200 to R204). -/
structure State.Taken (u : State) (m e : Byte) (r : List Byte) (k : Nat) (v : State) : Prop where
  kept    : v.outsideReception = u.outsideReception
  phase   : v.phase = .rx
  count   : v.rxcount.toNat = k
  sum     : v.cksum = ck ((frameBody m e r).take k)
  len     : 3 ≤ k → v.rxlen.toNat = r.length
  trunc   : v.trunc = (u.trunc || decide (3 ≤ k ∧ u.rxcap.toNat < r.length))
  wf      : v.mem.wf = true
  outside : SameOutside .rx u v
  rxbuf   : ∀ j, v.readBuf .rx j = if j < min (k - 3) u.rxcap.toNat then r.getD j 0 else 0

/-- A reception that ReceiveEnter began in `u` has, in `t`, ended on the checksum byte `c` (rules R205 to R207). -/
structure State.Received (u : State) (m e : Byte) (r : List Byte) (c : Byte) (t : State) : Prop where
  kept    : t.outsideReception = u.outsideReception
  phase   : t.phase = .idle
  outside : SameOutside .rx u t
  len     : t.rxlen.toNat = r.length
  count   : t.rxcount.toNat = r.length + 4
  sum     : t.cksum = ck (frameBody m e r)
  rxck    : t.rxck = c
  trunc   : t.trunc = (u.trunc || decide (u.rxcap.toNat < r.length))
  good    : c = ck (frameBody m e r) → t.result = .ok ∧
    ∀ j, t.readBuf .rx j = if j < min r.length u.rxcap.toNat then r.getD j 0 else 0
  bad     : c ≠ ck (frameBody m e r) → t.result = .ckfail ∧ ∀ j, t.readBuf .rx j = 0

theorem State.receiveEnter_sameOutside (s : State) : SameOutside .rx s s.receiveEnter :=
  s.clearBuf_sameOutside .rx 0

theorem State.Taken.enter (hm : s.mem.wf = true) : s.Taken m e r 0 s.receiveEnter := by
  obtain ⟨zero, outside⟩ := State.clearBuf_rxbufZeroed s
  rw [State.receiveEnter_eq]
  exact ⟨rfl, rfl, rfl, rfl, fun h => absurd h (by decide), by simp, State.clearBuf_wf hm .rx 0, outside,
    fun j => (zero j).trans (by simp)⟩

/-- Neither time nor the queue counts. -/
theorem State.Taken.withLink (h : u.Taken m e r k v) (q : List Byte) (n : Word) :
    u.Taken m e r k { v with rxq := q, now := n } := { h with }

/-- RXBUF with the byte at index RXCOUNT stored, where that is a payload byte for which there is room (rule R204). -/
def State.storePayload (s : State) (b : Byte) : State :=
  if 3 ≤ s.rxcount.toNat ∧ s.rxcount.toNat - 3 < s.rxcap.toNat then s.writeBuf .rx (s.rxcount.toNat - 3) b else s

theorem State.storePayload_wf (hm : s.mem.wf = true) (b : Byte) : (s.storePayload b).mem.wf = true := by
  unfold State.storePayload
  split
  · exact State.writeBuf_wf hm ..
  · exact hm

theorem State.storePayload_sameOutside (hm : s.mem.wf = true) (b : Byte) : SameOutside .rx s (s.storePayload b) := by
  unfold State.storePayload
  split
  · exact State.writeBuf_sameOutside hm .rx _ b
  · exact fun _ _ => rfl

/-- Short of the checksum byte a byte is counted and summed and the next wait begins; what else it does goes by its
index (rules R201 to R204). -/
theorem State.takeByte_awaits (s : State) (b : Byte)
    (h : s.rxcount.toNat ≤ 2 ∨ s.rxcount.toNat < 3 + s.rxlen.toNat) :
    s.takeByte b =
      { s with
        rxcount := s.rxcount + 1, cksum := s.cksum + b, t0 := s.now, budget := s.params.tByte
        rxlen := if s.rxcount.toNat = 2 then b else s.rxlen
        trunc := if s.rxcount.toNat = 2 then s.trunc || decide (s.rxcap.toNat < b.toNat) else s.trunc
        mem := (s.storePayload b).mem } := by
  unfold State.storePayload
  have stored (j : Nat) : ({ s with rxcount := s.rxcount + 1 }.writeBuf .rx j b).mem = (s.writeBuf .rx j b).mem := by
    unfold State.writeBuf; split <;> rfl
  obtain ⟨h1, e⟩ | ⟨h2, e⟩ | ⟨h3, _, e⟩ | ⟨h4, _, _⟩ | ⟨h4, _, _⟩ := s.takeByte_cases b
  · rw [e, State.takeHead_eq, if_neg (by omega), if_neg (by omega), if_neg (by omega)]
  · rw [e, State.takeLength_eq, if_pos h2, if_pos h2, if_neg (by omega)]
  · have h2 : ¬s.rxcount.toNat = 2 := by omega
    rw [e, State.takePayload_eq]
    by_cases hc : s.rxcount.toNat - 3 < s.rxcap.toNat <;>
      simp only [h2, h3, hc, and_self, and_false, if_true, if_false, stored]
  · omega
  · omega

theorem getElem?_frameBody (m e : Byte) (r : List Byte) (j : Nat) : (frameBody m e r)[j + 3]? = r[j]? := rfl

theorem State.Taken.rxcap_eq (h : u.Taken m e r k v) : v.rxcap = u.rxcap := congrArg OutsideReception.rxcap h.kept

theorem lt_of_getElem?_frameBody (hb : (frameBody m e r)[k]? = some b) : k < r.length + 3 := by
  obtain ⟨hk, _⟩ := List.getElem?_eq_some_iff.mp hb
  rwa [frameBody_length] at hk

/-- A payload byte extends what RXBUF holds, up to its capacity (rule R204). -/
theorem State.Taken.readBuf_storePayload (h : u.Taken m e r k v) (hr : r.length ≤ 255)
    (hb : (frameBody m e r)[k]? = some b) (j : Nat) :
    (v.storePayload b).readBuf .rx j = if j < min (k + 1 - 3) u.rxcap.toNat then r.getD j 0 else 0 := by
  have hk := lt_of_getElem?_frameBody hb
  rw [State.storePayload, h.count, h.rxcap_eq]
  split
  · rw [State.readBuf_writeBuf h.wf, h.rxbuf]
    by_cases hj : j = k - 3
    · obtain ⟨l, rfl⟩ : ∃ l, k = l + 3 := ⟨k - 3, by omega⟩
      rw [getElem?_frameBody] at hb
      have inside : l < Buf.size .rx := Nat.lt_of_lt_of_le (Nat.lt_of_add_lt_add_right hk) hr
      rw [if_pos ⟨rfl, hj, inside⟩, if_pos (by omega)]
      simp [hj, hb]
    · rw [if_neg (by tauto)]
      exact if_congr (by omega) rfl rfl
  · rw [h.rxbuf]
    exact if_congr (by omega) rfl rfl

/-- The invariant of a reception: the next byte of the frame takes it one byte on (rules R201 to R204). -/
theorem State.Taken.takeByte (h : u.Taken m e r k v) (hr : r.length ≤ 255) (hb : (frameBody m e r)[k]? = some b) :
    u.Taken m e r (k + 1) (v.takeByte b) := by
  have hk := lt_of_getElem?_frameBody hb
  have stored := h.readBuf_storePayload hr hb
  have cap := h.rxcap_eq
  obtain ⟨kept, phase, count, sum, len, trunc, wf, outside, _⟩ := h
  have declared : k = 2 → b.toNat = r.length := by
    rintro rfl
    obtain rfl : BitVec.ofNat 8 r.length = b := by simpa [frameBody] using hb
    exact (BitVec.toNat_ofNat _ _).trans (Nat.mod_eq_of_lt (by omega))
  rw [v.takeByte_awaits b (by omega)]
  constructor
  case kept => exact kept
  case phase => exact phase
  case count => rw [BitVec.toNat_add, count]; exact Nat.mod_eq_of_lt (by change k + 1 < 512; omega)
  case sum => simp [List.take_add_one, hb, ck_append, ck_cons, ck_nil, sum]
  case len =>
    intro h3
    by_cases h2 : k = 2
    · simpa only [count, h2, if_true] using declared h2
    · simpa only [count, h2, if_false] using len (by omega)
  case trunc =>
    by_cases h2 : k = 2
    · simp [count, trunc, h2, cap, declared h2]
    · simp [count, trunc, h2, show 3 ≤ k ↔ 2 ≤ k by omega]
  case wf => exact State.storePayload_wf wf b
  case outside => exact outside.trans ((State.storePayload_sameOutside wf b).of_mem_eq rfl)
  case rxbuf => exact fun j => (State.readBuf_of_mem_eq rfl .rx j).trans (stored j)

/-- The checksum byte ends the reception (rules R205 to R207, R209). -/
theorem State.Taken.takeChecksum (h : u.Taken m e r (r.length + 3) v) (hr : r.length ≤ 255) (c : Byte) :
    u.Received m e r c (v.takeByte c) := by
  obtain ⟨kept, phase, count, sum, len, trunc, wf, outside, rxbuf⟩ := h
  have len := len (by omega)
  rw [List.take_of_length_le (by simp)] at sum
  have count' : (v.rxcount + 1).toNat = r.length + 4 := by
    rw [BitVec.toNat_add, count]; exact Nat.mod_eq_of_lt (by change r.length + 3 + 1 < 512; omega)
  have trunc : v.trunc = (u.trunc || decide (u.rxcap.toNat < r.length)) := by simpa using trunc
  obtain ⟨_, _⟩ | ⟨_, _⟩ | ⟨_, _, _⟩ | ⟨_, hc, e⟩ | ⟨_, hc, e⟩ := v.takeByte_cases c
  · omega
  · omega
  · omega
  · rw [e]
    exact ⟨kept, rfl, outside, len, count', sum, rfl, trunc, fun _ => ⟨rfl, rxbuf⟩,
      fun hne => absurd (hc.trans sum) hne⟩
  · rw [e]
    obtain ⟨zero, out⟩ := State.clearBuf_rxbufZeroed { v with rxcount := v.rxcount + 1, rxck := c }
    exact ⟨kept, rfl, outside.trans out, len, count', sum, rfl, trunc,
      fun heq => absurd (heq.trans sum.symm) hc, fun _ => ⟨rfl, zero⟩⟩

theorem State.takeByte_rxq (s : State) (b : Byte) : (s.takeByte b).rxq = s.rxq := by
  obtain ⟨_, h⟩ | ⟨_, h⟩ | ⟨_, _, h⟩ | ⟨_, _, h⟩ | ⟨_, _, h⟩ := s.takeByte_cases b <;> rw [h]
  · rfl
  · rfl
  · rw [State.takePayload_eq]
  · rfl
  · rfl

/-- A reception of operation `i` that began in `u` can run: `i` is in CTRL and receives, and a byte that arrives is
not lost. -/
structure State.CanReceive (u : State) (i : Instr) : Prop where
  decodes  : decode u.ctrl = .ok i
  receives : .rx ∈ phasesOf i
  released : u.rst = false
  depth    : 1 ≤ u.params.rxqDepth

/-- A wait within its budget and the byte that ends it, polled or not (rules R180, R201, R210). -/
theorem State.Taken.arrival {T : BitVec 16} (h : u.Taken m e r k v) (hu : u.CanReceive i) (hv : v.Waits T)
    (polled : Bool) (w : Nat × Byte) (hw : w.1 ≤ T.toNat) :
    RunsTo (Sys2Proof.Machine.arrival polled w) v
      ({ v with rxq := [], now := v.now + BitVec.ofNat 32 w.1 }.takeByte w.2) := by
  obtain ⟨ctrl, _, _, _, _, _, _, _, rst, params⟩ := OutsideReception.mk.inj h.kept
  refine RunsTo.arrival polled w (by simp [h.phase]) (rst.trans hu.released) (by rw [ctrl, hu.decodes]) hv.rxq
    (by rw [params]; exact hu.depth) ?_ ?_
  · intro _ j hj
    have early := State.elapsed_le (T := v.budget) hv.t0 (hj.trans (by rwa [hv.budget]))
    exact (exec_of_rx (by exact h.phase) hu.receives).trans (State.rxPoll_pending (by exact hv.rxq) early)
  · exact (exec_of_rx (by exact h.phase) hu.receives).trans (State.rxPoll_cons (by rfl))

/-- Short of the checksum byte the wait for the next byte begins (rule R201). -/
theorem State.Taken.takeByte_waits (h : u.Taken m e r k v) (hq : v.rxq = []) (hk : k < r.length + 3) (b : Byte) :
    (v.takeByte b).Waits u.params.tByte := by
  obtain ⟨kept, _, count, _, len, _⟩ := h
  have params : v.params = u.params := congrArg OutsideReception.params kept
  rw [v.takeByte_awaits b (by omega), ← params]
  exact ⟨hq, rfl, rfl⟩

/-- The rest of a frame whose bytes arrive within their budgets, one arrival after the other (rules R201 to R210). -/
theorem State.Taken.arrivals {T : BitVec 16} (h : u.Taken m e r k v) (hu : u.CanReceive i) (hv : v.Waits T)
    (hr : r.length ≤ 255) (hk : k ≤ r.length + 3) (polled : Bool) (w : Nat × Byte) (ws : List (Nat × Byte))
    (hb : (w :: ws).map Prod.snd = (frameBody m e r).drop k ++ [c]) (hw : w.1 ≤ T.toNat)
    (hws : ∀ x ∈ ws, x.1 ≤ u.params.tByte.toNat) :
    ∃ t, RunsTo (Sys2Proof.Machine.arrivals polled (w :: ws)) v t ∧ u.Received m e r c t ∧ t.rxq = [] := by
  induction ws generalizing k v w T with
  | nil =>
    obtain ⟨none, last⟩ := List.append_inj' (s₁ := []) (t₁ := [w.2]) hb rfl
    obtain rfl : k = r.length + 3 := hk.antisymm (by simpa using none.symm)
    obtain rfl : w.2 = c := List.singleton_inj.mp last
    have run := h.arrival hu hv polled w hw
    exact ⟨_, by simpa [Sys2Proof.Machine.arrivals] using run, (h.withLink [] _).takeChecksum hr w.2,
      State.takeByte_rxq _ _⟩
  | cons x ws ih =>
    have more : k < (frameBody m e r).length := by
      have := congrArg List.length hb
      simp only [List.length_map, List.length_cons, List.length_append, List.length_drop, List.length_nil] at this
      omega
    rw [List.drop_eq_getElem_cons more] at hb
    obtain ⟨byte, hb⟩ := List.cons.inj hb
    have byte : (frameBody m e r)[k]? = some w.2 := by rw [byte]; exact List.getElem?_eq_getElem more
    have short := lt_of_getElem?_frameBody byte
    have taken := h.withLink [] (v.now + BitVec.ofNat 32 w.1)
    obtain ⟨t, rest, received⟩ := ih (taken.takeByte hr byte) (taken.takeByte_waits rfl short w.2) short x hb
      (hws x (by simp)) fun y hy => hws y (by simp [hy])
    exact ⟨t, (h.arrival hu hv polled w hw).append rest, received⟩

/-- A whole frame, from ReceiveEnter to the end (rules R200 to R210). -/
theorem RunsTo.reception (hm : s.mem.wf = true) (hu : s.CanReceive i) (hq : s.rxq = [])
    (hr : r.length ≤ 255) (polled : Bool) {ws : List (Nat × Byte)}
    (hb : ws.map Prod.snd = frameBody m e r ++ [c]) (hw : InTime s.params ws) :
    ∃ t, RunsTo (Sys2Proof.Machine.arrivals polled ws) s.receiveEnter t ∧ s.Received m e r c t ∧ t.rxq = [] := by
  cases ws with
  | nil => simp at hb
  | cons w ws =>
    obtain ⟨first, later⟩ := hw
    exact (State.Taken.enter hm).arrivals hu ⟨hq, rfl, rfl⟩ hr (Nat.zero_le _) polled w ws hb first later

/-- A reception that ReceiveEnter began in `u` has, in `t`, ended with no byte received (rule R208). -/
structure State.ReceivedNothing (u t : State) : Prop where
  kept    : t.outsideReception = u.outsideReception
  phase   : t.phase = .idle
  rxq     : t.rxq = []
  outside : SameOutside .rx u t
  result  : t.result = .timeout
  len     : t.rxlen = 0
  count   : t.rxcount = 0
  rxck    : t.rxck = 0
  sum     : t.cksum = 0
  trunc   : t.trunc = u.trunc
  rxbuf   : ∀ j, t.readBuf .rx j = 0

theorem State.receivedNothing (hq : s.rxq = []) (n : Word) :
    s.ReceivedNothing ({ s.receiveEnter with now := n }.failReceive .timeout) := by
  obtain ⟨zero, outside⟩ := State.clearBuf_rxbufZeroed s.receiveEnter
  have outside := s.receiveEnter_sameOutside.trans outside
  rw [State.receiveEnter_eq] at zero outside
  rw [State.failReceive_eq, State.receiveEnter_eq]
  exact ⟨rfl, rfl, hq, outside, rfl, rfl, rfl, rfl, rfl, rfl, zero⟩

/-- No byte for T_FIRST + 1 ms ends a reception TIMEOUT (rule R208). -/
theorem RunsTo.receptionSilence (hd : decode s.ctrl = .ok i) (hi : .rx ∈ phasesOf i) (hr : s.rst = false)
    (hq : s.rxq = []) :
    ∃ t, RunsTo (List.replicate (s.params.tFirst.toNat + 1) .clock ++ [.engine]) s.receiveEnter t ∧
      s.ReceivedNothing t :=
  ⟨_, .rxSilence rfl hr hd hi ⟨hq, rfl, rfl⟩, State.receivedNothing hq _⟩

theorem State.Received.requestSent (h : (s.requestOut rply cmd p).Received m e r c t)
    (hm : s.mem.wf = true) (hp : p.length ≤ 255) (hq : t.rxq = []) : RequestSent s t cmd p :=
  .of_reception hm hp h.kept h.outside h.phase hq

theorem State.ReceivedNothing.requestSent (h : (s.requestOut rply cmd p).ReceivedNothing t)
    (hm : s.mem.wf = true) (hp : p.length ≤ 255) : RequestSent s t cmd p :=
  .of_reception hm hp h.kept h.outside h.phase h.rxq

theorem RequestSent.withAgenda (h : RequestSent s t cmd p) (a : List Move) : RequestSent s (t.withAgenda a) cmd p :=
  { h with }

/-! ## The statements of 30_encoding.md -/

/-- Settles O1: the fields stand in the word as they were laid out, and the assembled fields decode. -/
theorem decodeEncodeRoundTrip : Obligations.DecodeEncodeRoundTrip := decode_encode

/-- Settles O2: RSV is 0, so the fields in place are the word; the row is `Instr.row`. -/
theorem assembledWordLayout : Obligations.AssembledWordLayout := by
  intro i
  obtain ⟨rply, rsv⟩ := i.fields_rply_rsv
  refine ⟨OpWord.toWord_eq_shifts rsv, rply, i.row, i.row_mem, i.row_mnemonic,
    row_covers_of_decode (decode_encode i), ?_⟩
  rw [← encode_and_care, BitVec.and_assoc, BitVec.and_not_self]
  exact BitVec.and_zero

/-- Settles O3: `OpWord.legal_of_decode` one way, `OpWord.decodes_of_legal` the other. -/
theorem decodeAcceptsExactlyLegalWords : Obligations.DecodeAcceptsExactlyLegalWords := by
  intro w
  rw [← extractLsb'_one_eq_zero_iff, ← extractLsb'_one_eq_zero_iff]
  constructor
  · rintro ⟨i, h⟩
    obtain ⟨known, rsv, rply, shape⟩ := OpWord.legal_of_decode h
    exact ⟨known, rsv, rply, fun h _ => shape h⟩
  · rintro ⟨known, rsv, rply, shape⟩
    obtain ⟨i, h⟩ := OpWord.decodes_of_legal (f := OpWord.ofWord w) known rsv rply fun h => shape h known.2
    exact ⟨i, decode_eq_ok_iff.mpr h⟩

/-- Settles O4: the row of the operation matches, and no two rows match one word. -/
theorem legalWordMatchesOneRow : Obligations.LegalWordMatchesOneRow := by
  intro w
  refine ⟨fun i h => ?_, fun none => ?_⟩
  · have covers := row_covers_of_decode h
    exact ⟨i.row, i.row_mem, covers, i.row_mnemonic, fun q hq hqw => OpcodeRow.eq_of_covers hq i.row_mem hqw covers⟩
  · cases h : decode w with
    | error e => exact ⟨e, rfl⟩
    | ok i => exact absurd (row_covers_of_decode h) (by simp [none i.row i.row_mem])

/-- Settles O5: the row is the operation's, whose ignored bits `OpWord.Decodes` leaves open; issue stores the word. -/
theorem ignoredBitsHaveNoEffect : Obligations.IgnoredBitsHaveNoEffect := by
  intro w v i r h hr covers agree
  obtain rfl := OpcodeRow.eq_of_covers hr i.row_mem covers (row_covers_of_decode h)
  rw [OpWord.and_eq_iff, OpWord.ofWord_and, i.ofWord_row_care] at agree
  have hv : decode v = .ok i := decode_eq_ok_iff.mpr ((decode_eq_ok_iff.mp h).of_care agree)
  refine ⟨hv, fun s hr hp => ?_⟩
  rw [hostWrite_ctrl_of_idle hr hp hv, State.accept_ctrl]

/-- Settles O6, by evaluation of the decoder on each word. -/
theorem specWordsDecode : Obligations.SpecWordsDecode := by
  unfold Obligations.SpecWordsDecode
  decide

/-- Settles O11: CTRL is the target and the engine is idle, so the word is issued, and only a legal one is accepted. -/
theorem illegalWordIsRejected : Obligations.IllegalWordIsRejected := by
  intro s w hr hp illegal
  obtain ⟨i, hi, _⟩ | ⟨_, _, h⟩ := s.issue_cases w
  · exact absurd hi (illegal i)
  · rw [← h]
    exact hostWrite_of_idle hr hp rfl

/-- Settles O21: `State.encodeOp` on TXBUF's payload, which is read at its window addresses. -/
theorem encodeBufBuildsFrame : Obligations.EncodeBufBuildsFrame := by
  intro s cmd hs hm
  rw [← s.payloadBuf_eq]
  exact State.encodeOp_encodes hs hm cmd s.payloadBuf_length_le

/-- Settles O43: `RunsTo.request`, and with a reply due `RunsTo.reception` or `RunsTo.receptionSilence` after it. -/
theorem transactSendsItsFrame : Obligations.TransactSendsItsFrame := by
  intro s rply cmd i p rest hs hd hr hq hm shape
  have op := isTransact_of_shape shape
  have request := RunsTo.request op hs hd hr hq hm
  refine ⟨?_, ?_, ?_⟩
  · rintro rfl ha
    obtain ⟨frame, outside, _, _⟩ := State.encodeFrame_encodedAs hm cmd op.length
    exact ⟨_, request.run ha, .of_reception (rply := false) hm op.length rfl (fun _ _ => rfl) rfl hq,
      ⟨frame, outside, rfl, framelen_toNat op.length⟩, rfl, rfl, rfl, rfl, rfl, rfl⟩
  · rintro polled ws m e c r rfl htrunc depth hlen hb hw ha
    obtain ⟨t, reply, received, empty⟩ := RunsTo.reception (s := s.requestOut true cmd p)
      (State.requestOut_wf hm op.length) (State.CanReceive.mk hd op.rx_mem hr depth) hq hlen polled hb hw
    have trunc : (s.requestOut true cmd p).trunc = false := htrunc
    have sent := (received.requestSent hm op.length empty).withAgenda rest
    obtain ⟨_, _, _, len, count, sum, rxck, htrunc, good, bad⟩ := received
    rw [trunc, Bool.false_or] at htrunc
    rw [← List.append_assoc] at ha
    exact ⟨_, (request.append reply).run ha, sent, rfl, len, count, sum, rxck, htrunc, good, bad⟩
  · rintro rfl ha
    obtain ⟨t, silence, nothing⟩ := RunsTo.receptionSilence (s := s.requestOut true cmd p) hd op.rx_mem hr hq
    have run := (request.append silence).run (rest := rest) (by rw [List.append_assoc, List.append_assoc]; exact ha)
    simp only [List.length_append, List.length_replicate, List.length_singleton] at run
    have sent := (nothing.requestSent hm op.length).withAgenda rest
    obtain ⟨_, _, _, _, result, len, count, rxck, sum, trunc, rxbuf⟩ := nothing
    exact ⟨_, run, sent, result, rfl, len, count, rxck, sum, trunc, rxbuf⟩

end Sys2Proof.Machine

/-! SUPPORT. The checksum accumulator byte by byte, what leaves CKSUM as it is, and a reception whose bytes all lie in
`rxq`; and the statements of 40_checksum.md. -/

namespace Sys2Proof.Machine

variable {s t u v : State} {i : Instr}

/-! ## The accumulator -/

/-- A sum of bytes, its carry discarded, is the sum mod 256 (rule R121). -/
theorem byte_ofNat_mod (n : Nat) : BitVec.ofNat 8 (n % 256) = BitVec.ofNat 8 n :=
  BitVec.eq_of_toNat_eq (by simp)

/-- `CkAdd` of each byte in turn adds the checksum of the sequence (rule R122). -/
theorem State.foldl_ckAdd (s : State) (l : List Byte) :
    l.foldl (fun u b => u.ckAdd b) s = { s with cksum := s.cksum + ck l } := by
  induction l generalizing s with
  | nil => simp [ck_nil]
  | cons b l ih => rw [List.foldl_cons, ih, ck_cons, ← BitVec.add_assoc]; rfl

/-- The sum does not depend on the order of its bytes (rule R125 item 2). -/
theorem ck_perm {l r : List Byte} (h : l.Perm r) : ck l = ck r := by
  rw [ck, ck, (h.map BitVec.toNat).sum_eq]

/-- Equal sums around one byte have the same byte there (rule R125 item 1). -/
theorem ck_append_cons_inj {l r : List Byte} {a b : Byte} (h : ck (l ++ a :: r) = ck (l ++ b :: r)) : a = b := by
  rw [ck_append, ck_append, ck_cons, ck_cons] at h
  exact add_right_cancel (add_left_cancel h)

/-! ## What leaves CKSUM -/

theorem State.drainPoll_cksum (h : s.drainPoll = .next t) : t.cksum = s.cksum := by
  obtain ⟨_, _, _, rfl⟩ | ⟨_, _, rfl⟩ | rfl := State.drainPoll_cases h
  · rfl
  · rw [State.drainDone_eq]; split <;> rfl
  · rfl

theorem State.waitPoll_cksum (h : s.waitPoll = .next t) : t.cksum = s.cksum := by
  obtain ⟨_, rfl⟩ | ⟨_, _, rfl⟩ | rfl := State.waitPoll_cases h <;> rfl

/-- With no reply due the last byte does not go on into ReceiveEnter, which clears CKSUM (rules R164, R200). -/
theorem State.txStep_cksum (hn : s.replyDue = false) (h : s.txStep = .next t) : t.cksum = s.cksum := by
  obtain ⟨_, rfl⟩ | ⟨_, _, rfl⟩ | ⟨_, due, _⟩ := State.txStep_cases h
  · rfl
  · rfl
  · rw [hn] at due; contradiction

theorem State.sendStart_cksum (s : State) : s.sendStart.cksum = s.cksum := by
  obtain ⟨_, h⟩ | ⟨_, h⟩ := s.sendStart_cases <;> rw [h] <;> rfl

theorem exec_drain_of_start (hs : s.phase = .start) : exec .drain s = .next (s.drainEnter .finish) := by
  rw [exec, execDrain, hs]

theorem exec_waitbyte_of_start (ms : BitVec 16) (hs : s.phase = .start) :
    exec (.waitbyte ms) s = .next (s.waitEnter ms) := by
  rw [exec, execWaitbyte, hs]

theorem exec_send_of_start (hs : s.phase = .start) : exec .send s = .next s.sendStart := by
  rw [exec, execSend, hs]

theorem exec_receive_of_start (hs : s.phase = .start) : exec .receive s = .next s.receiveEnter := by
  rw [exec, execReceive, hs]

/-- An operation whose START keeps CKSUM, that does not receive, and that transmits with no reply due keeps it in every
micro-step. -/
theorem exec_cksum (start : s.phase = .start → exec i s = .next u) (keep : u.cksum = s.cksum)
    (tx : .tx ∈ phasesOf i → s.replyDue = false) (rx : .rx ∉ phasesOf i) (h : exec i s = .next t) :
    t.cksum = s.cksum := by
  obtain ⟨hs, _⟩ | ⟨_, _, drain⟩ | ⟨_, hi, send⟩ | ⟨_, hi, _⟩ | ⟨_, _, wait⟩ := exec_cases h
  · obtain rfl : u = t := Host.Outcome.next.inj ((start hs).symm.trans h)
    exact keep
  · exact State.drainPoll_cksum drain
  · exact State.txStep_cksum (tx hi) send
  · exact absurd hi rx
  · exact State.waitPoll_cksum wait

/-! ## A frame in the queue -/

variable {m e b c : Byte} {r q : List Byte} {k : Nat}

/-- A poll of the RX phase takes the byte at the head of the queue (rules R180, R201). -/
theorem State.Taken.poll (h : u.Taken m e r k v) (hd : decode u.ctrl = .ok i) (hi : .rx ∈ phasesOf i)
    (hr : u.rst = false) (hq : v.rxq = b :: q) : RunsTo [.engine] v ({ v with rxq := q }.takeByte b) := by
  obtain ⟨ctrl, _, _, _, _, _, _, _, rst, _⟩ := OutsideReception.mk.inj h.kept
  exact .engine (by simp [h.phase]) (rst.trans hr) (by rw [ctrl, hd])
    ((exec_of_rx h.phase hi).trans (State.rxPoll_cons hq))

/-- The rest `l` of a frame's body and its checksum byte lie in the queue: one poll each takes them, and what is
queued behind them stays (rules R201 to R210). -/
theorem State.Taken.queued (h : u.Taken m e r k v) (hd : decode u.ctrl = .ok i) (hi : .rx ∈ phasesOf i)
    (hr : u.rst = false) (hlen : r.length ≤ 255) (hk : k ≤ r.length + 3) {l : List Byte}
    (hl : (frameBody m e r).drop k = l) (hq : v.rxq = l ++ c :: q) :
    ∃ t, RunsTo (List.replicate (l.length + 1) .engine) v t ∧ u.Received m e r c t ∧ t.rxq = q := by
  induction l generalizing k v with
  | nil =>
    obtain rfl : k = r.length + 3 := hk.antisymm (by simpa using hl)
    exact ⟨_, h.poll hd hi hr hq, (h.withLink q v.now).takeChecksum hlen c, State.takeByte_rxq _ _⟩
  | cons b l ih =>
    have byte : (frameBody m e r)[k]? = some b := by rw [← List.head?_drop, hl]; rfl
    have rest : (frameBody m e r).drop (k + 1) = l := by rw [← List.tail_drop, hl]; rfl
    have taken := (h.withLink (l ++ c :: q) v.now).takeByte hlen byte
    obtain ⟨t, run, received, left⟩ := ih taken (lt_of_getElem?_frameBody byte) rest (State.takeByte_rxq _ _)
    exact ⟨t, (h.poll hd hi hr hq).append run, received, left⟩

/-- `receive` from START to its end, a frame with any checksum byte at the head of the queue (rules R200 to R212). -/
theorem RunsTo.receiveQueued (hs : s.phase = .start) (hd : decode s.ctrl = .ok .receive) (hr : s.rst = false)
    (hm : s.mem.wf = true) (hlen : r.length ≤ 255) (hq : s.rxq = frameBody m e r ++ c :: q) :
    ∃ t, RunsTo (List.replicate (r.length + 5) .engine) s t ∧ s.Received m e r c t ∧ t.rxq = q := by
  have enter : RunsTo [.engine] s s.receiveEnter := .engine (by simp [hs]) hr hd (exec_receive_of_start hs)
  obtain ⟨t, run, received, left⟩ :=
    (State.Taken.enter hm).queued hd (by decide) hr hlen (Nat.zero_le _) List.drop_zero hq
  rw [frameBody_length] at run
  exact ⟨t, enter.append run, received, left⟩

/-! ## The statements of 40_checksum.md -/

/-- Settles O18: `ckInit` by definition, and the byte sum is the sum mod 256. -/
theorem checksumMicroOps : Obligations.ChecksumMicroOps := by
  intro s b
  have sum : s.cksum + b = BitVec.ofNat 8 ((s.cksum.toNat + b.toNat) % 256) := by
    simp [byte_ofNat_mod, BitVec.ofNat_add]
  exact ⟨rfl, by rw [← sum]; rfl⟩

/-- Settles O19: `State.foldl_ckAdd` from a CKSUM of 0. -/
theorem checksumAccumulates : Obligations.ChecksumAccumulates := by
  intro s l
  rw [State.foldl_ckAdd, State.ckInit_cksum, byte_ofNat_mod]
  simp [State.ckInit, ck]

/-- Settles O20, by `ck_append_cons_inj` and `ck_perm`. -/
theorem checksumDetection : Obligations.ChecksumDetection :=
  ⟨fun _ _ _ _ hab h => hab (ck_append_cons_inj h), fun _ _ => ck_perm⟩

/-- Settles O39: `RunsTo.receiveQueued`, and a wrong checksum byte ends it CKFAIL. -/
theorem receiveRejectsWrongChecksum : Obligations.ReceiveRejectsWrongChecksum := by
  intro s m e c p q rest hs hd hr hm hlen hc hq ha
  obtain ⟨t, run, received, left⟩ := RunsTo.receiveQueued hs hd hr hm hlen hq
  have run := run.run ha
  rw [List.length_replicate] at run
  obtain ⟨_, phase, outside, len, count, sum, rxck, _, _, bad⟩ := received
  obtain ⟨result, zero⟩ := bad hc
  exact ⟨_, run, result, phase, left, rfl, ⟨zero, outside⟩, len, count, sum, rxck⟩

/-- Settles O57: each START keeps CKSUM, none of the three receives, and of them `send` alone transmits. -/
theorem checksumWriters : Obligations.ChecksumWriters := fun s _ ms =>
  ⟨exec_cksum exec_drain_of_start rfl (fun hi => absurd hi (by decide)) (by decide),
    exec_cksum (exec_waitbyte_of_start ms) rfl (fun hi => by simp [phasesOf] at hi) (by simp [phasesOf]),
    fun hn => exec_cksum exec_send_of_start s.sendStart_cksum (fun _ => hn) (by decide)⟩

end Sys2Proof.Machine

/-! SUPPORT. Two encodes of one command and payload agree, and each ENCODE operation is the encoder on its payload; and
the statements of 41_encoder.md. -/

namespace Sys2Proof.Machine

variable {s t u v : State} {i : Instr} {cmd : Byte} {p : List Byte}

/-- FRAME, FRAMELEN and CKSUM are settled by MARKER, the command and the payload (rule R140). -/
theorem EncodedAs.agree (ht : EncodedAs s t cmd p) (hv : EncodedAs u v cmd p)
    (marker : s.params.marker = u.params.marker) :
    (∀ j, t.readBuf .frame j = v.readBuf .frame j) ∧ t.framelen = v.framelen ∧ t.cksum = v.cksum := by
  obtain ⟨frame_t, _, sum_t, len_t⟩ := ht
  obtain ⟨frame_v, _, sum_v, len_v⟩ := hv
  rw [marker] at frame_t sum_t
  exact ⟨fun j => (frame_t j).trans (frame_v j).symm, BitVec.eq_of_toNat_eq (len_t.trans len_v.symm),
    sum_t.trans sum_v.symm⟩

/-- A convenience shape encodes the bytes that TXBUF holds for `encode.buf` (rule R146). -/
theorem exec_eq_encodeOp_payloadBuf
    (shape : (i = .encodeZ cmd ∧ u.txlen = 0) ∨
      (∃ arg, i = .encodeB cmd arg ∧ u.txlen = 1 ∧ u.readBuf .tx 0 = arg) ∨
      (∃ arg : BitVec 16, i = .encodeH cmd arg ∧ u.txlen = 2 ∧
        u.readBuf .tx 0 = arg.extractLsb' 8 8 ∧ u.readBuf .tx 1 = arg.extractLsb' 0 8)) (s : State) :
    exec i s = s.encodeOp cmd u.payloadBuf := by
  obtain ⟨rfl, len⟩ | ⟨arg, rfl, len, byte⟩ | ⟨arg, rfl, len, high, low⟩ := shape
  · have payload : u.payloadBuf = payloadZ := by simp [State.payloadBuf, payloadZ, len]
    rw [payload]; rfl
  · have payload : u.payloadBuf = payloadB arg := by simp [State.payloadBuf, payloadB, len, byte]
    rw [payload]; rfl
  · have payload : u.payloadBuf = payloadH arg := by
      simp [State.payloadBuf, payloadH, len, List.range_succ, high, low]
    rw [payload]; rfl

/-- Settles O23: both operations encode `u`'s TXBUF payload, and the encoder leaves TXBUF as it is. -/
theorem convenienceShapesAgreeWithBuf : Obligations.ConvenienceShapesAgreeWithBuf := by
  intro s u cmd i hs hu hm hn marker shape
  obtain ⟨t, run_t, encoded_t, kept⟩ := State.encodeOp_encodes hs hm cmd u.payloadBuf_length_le
  obtain ⟨v, run_v, encoded_v, _⟩ := State.encodeOp_encodes hu hn cmd u.payloadBuf_length_le
  obtain ⟨frame, len, sum⟩ := encoded_t.agree encoded_v marker
  have txlen : t.txlen = s.txlen := by rw [kept]
  obtain ⟨_, outside, _, _⟩ := encoded_t
  exact ⟨t, v, (exec_eq_encodeOp_payloadBuf shape s).trans run_t, run_v, frame, len, sum, txlen,
    outside.readBuf_eq (by decide)⟩

/-- Settles O24: `IsTransact.start`, and that state as the one record `State.requestEncoded`. -/
theorem transactStartEncodesAndDrains : Obligations.TransactStartEncodesAndDrains := by
  intro s rply cmd i p hs hm shape
  have op := isTransact_of_shape shape
  have encoded : EncodedAs s (s.transactStart rply cmd p) cmd p :=
    (State.encodeFrame_encodedAs hm cmd op.length).congr rfl rfl rfl
  refine ⟨_, op.start hs, encoded, ?_⟩
  rw [State.transactStart_eq hm op.length]
  rfl

end Sys2Proof.Machine

/-! SUPPORT. The transmit micro-steps with and without a reply due, START and drain of a silent link, a drain whose bytes
keep coming; and the statements of 42_transmitter.md. -/

namespace Sys2Proof.Machine

variable {s : State} {i : Instr}

/-! ## START and the last byte -/

theorem State.sendStart_of_empty (hf : s.framelen = 0) : s.sendStart = s.raiseResult .noframe := if_pos hf

theorem State.sendStart_of_framed (hf : s.framelen ≠ 0) :
    s.sendStart = { s with replyDue := false }.drainEnter .transmit := if_neg hf

theorem State.txDone_of_no_reply (hn : s.replyDue = false) : s.txDone = s.raiseResult .ok :=
  if_neg (by simp [hn])

theorem State.txDone_of_reply (hn : s.replyDue = true) : s.txDone = s.receiveEnter := if_pos hn

/-- ReceiveEnter zeroes RXBUF and no other byte of memory (rule R200). -/
theorem State.receiveEnter_rxbufZeroed (s : State) : RxbufZeroed s s.receiveEnter := s.clearBuf_rxbufZeroed

/-! ## A silent link -/

/-- START of an operation that only begins a drain, as one record (rules R160, R161, R163). -/
def State.drainBegun (s : State) (due : Bool) (next : DrainNext) : State :=
  { s with
    replyDue := due, draincnt := 0, drainNext := next, t0 := s.now, budget := s.params.tDrain, phase := .drain }

/-- That drain with no byte for T_DRAIN + 1 ms: its probe has timed out (rule R181). -/
def State.drainSilent (s : State) (due : Bool) (next : DrainNext) : State :=
  { s.drainBegun due next with now := s.now + BitVec.ofNat 32 (s.params.tDrain.toNat + 1) }

/-- START, and the drain of a silent link to its end (rules R160, R181). -/
theorem run_startDrainSilence {due : Bool} {next : DrainNext} {rest : List Move} (hs : s.phase = .start)
    (hr : s.rst = false) (hd : decode s.ctrl = .ok i) (hi : .drain ∈ phasesOf i) (hq : s.rxq = [])
    (start : exec i s = .next (s.drainBegun due next))
    (ha : s.agenda = .engine :: (List.replicate (s.params.tDrain.toNat + 1) .clock ++ .engine :: rest)) :
    Host.Core.run core (s.params.tDrain.toNat + 3) s = .next ((s.drainSilent due next).drainDone.withAgenda rest) := by
  have enter : RunsTo [.engine] s (s.drainBegun due next) := .engine (by simp [hs]) hr hd start
  have drain := RunsTo.drainSilence (s := s.drainBegun due next) rfl hr hd hi ⟨hq, rfl, rfl⟩
  have run := (enter.append drain).run (rest := rest) (by rw [ha, List.append_assoc, List.append_assoc]; rfl)
  rw [List.length_append, List.length_append, List.length_replicate, Nat.add_comm] at run
  exact run

/-! ## A drain whose bytes keep coming -/

/-- The drain of operation `i` has found every byte so far, and a byte that arrives is not lost. -/
structure State.Draining (s : State) (i : Instr) : Prop where
  phase    : s.phase = .drain
  decodes  : decode s.ctrl = .ok i
  drains   : .drain ∈ phasesOf i
  released : s.rst = false
  rxq      : s.rxq = []
  depth    : 1 ≤ s.params.rxqDepth

/-- `ms` after `s` the drain finds a byte in the queue: it is discarded and counted, and a fresh probe begins
(rule R160). -/
def State.discardAfter (s : State) (ms : Nat) : State :=
  { s with rxq := [], now := s.now + BitVec.ofNat 32 ms }.drainCount

theorem State.Draining.discardAfter (h : s.Draining i) (ms : Nat) : (s.discardAfter ms).Draining i :=
  { h with rxq := rfl }

/-- Each byte found begins a fresh probe (rule R160). -/
theorem State.discardAfter_waits (s : State) (ms : Nat) :
    (s.discardAfter ms).Waits (s.discardAfter ms).params.tDrain := ⟨rfl, rfl, rfl⟩

/-- A byte that arrives within the probe is discarded; a poll before it is pending (rules R160, R181). -/
theorem State.Draining.arrival (h : s.Draining i) {polled : Bool} {w : Nat × Byte}
    (hw : w.1 ≤ s.params.tDrain.toNat) (hv : polled = true → s.Waits s.params.tDrain) :
    RunsTo (Sys2Proof.Machine.arrival polled w) s (s.discardAfter w.1) := by
  refine .arrival polled w (by simp [h.phase]) h.released h.decodes h.rxq h.depth ?_ ?_
  · intro hp j hj
    have early := State.elapsed_le (hv hp).t0 (hj.trans hw)
    rw [← (hv hp).budget] at early
    exact (exec_of_drain (by exact h.phase) h.drains).trans (State.drainPoll_pending (by exact h.rxq) early)
  · exact (exec_of_drain (by exact h.phase) h.drains).trans (State.drainPoll_cons (by rfl))

/-- However many bytes arrive, each within a probe, the drain goes on and has counted each (rule R290). -/
theorem State.Draining.arrivals (h : s.Draining i) {polled : Bool} {ws : List (Nat × Byte)}
    (hw : ∀ w ∈ ws, w.1 ≤ s.params.tDrain.toNat) (hv : polled = true → s.Waits s.params.tDrain) :
    ∃ t, RunsTo (Sys2Proof.Machine.arrivals polled ws) s t ∧ t.Draining i ∧
      t.draincnt = s.draincnt + BitVec.ofNat 32 ws.length ∧
      t.now = s.now + BitVec.ofNat 32 (ws.map Prod.fst).sum := by
  induction ws generalizing s with
  | nil => exact ⟨s, .nil s, h, by simp, by simp⟩
  | cons w ws ih =>
    obtain ⟨first, later⟩ := List.forall_mem_cons.mp hw
    obtain ⟨t, run, draining, count, now⟩ :=
      ih (h.discardAfter w.1) later fun _ => s.discardAfter_waits w.1
    refine ⟨t, (h.arrival first hv).append run, draining, ?_, ?_⟩
    · have one : (s.discardAfter w.1).draincnt = s.draincnt + 1 := rfl
      rw [count, one, List.length_cons, ← add_ofNat_succ, add_right_comm]
    · have passed : (s.discardAfter w.1).now = s.now + BitVec.ofNat 32 w.1 := rfl
      rw [now, passed, List.map_cons, List.sum_cons, BitVec.ofNat_add, BitVec.add_assoc]

/-! ## The statements of 42_transmitter.md -/

/-- Settles O31: `State.txByte`, and after the last byte `State.txDone` by whether a reply is due. -/
theorem txByteStep : Obligations.TxByteStep := by
  intro i s hs hi
  refine ⟨fun more => exec_of_tx_more hs hi more, fun last hn => ?_, fun last hn => ?_⟩
  · have done : s.txByte.txDone = s.txByte.raiseResult .ok := State.txDone_of_no_reply hn
    rw [exec_of_tx_last hs hi last, done]
    simp [State.raiseResult, State.txByte_eq, hn]
  · have done : s.txByte.txDone = s.txByte.receiveEnter := State.txDone_of_reply hn
    refine ⟨_, (exec_of_tx_last hs hi last).trans (congrArg _ done), s.txByte.receiveEnter_rxbufZeroed, ?_⟩
    simp only [State.receiveEnter_eq, State.txByte_eq]

/-- Settles O41: `run_startDrainSilence`, with END to follow the drain. -/
theorem drainCompletesOnSilence : Obligations.DrainCompletesOnSilence := by
  intro s rest hs hd hr hq ha
  rw [run_startDrainSilence hs hr hd (by decide) hq (exec_drain_of_start hs) ha]
  rfl

/-- Settles O42: `run_startDrainSilence`, with TX to follow the drain, and then `transmitWritesWholeFrame`. -/
theorem sendSendsTheEncodedFrame : Obligations.SendSendsTheEncodedFrame := by
  intro s rest hs hd hr hq hf ha
  have start : exec .send s = .next (s.drainBegun false .transmit) :=
    (exec_send_of_start hs).trans (congrArg _ (State.sendStart_of_framed hf))
  rw [run_add _ _ (run_startDrainSilence hs hr hd (by decide) hq start ha)]
  exact transmitWritesWholeFrame ((s.drainSilent false .transmit).drainDone.withAgenda _) .send rest
    rfl hd (by decide) hr rfl rfl hf rfl

/-- Settles O44, by `State.Draining.arrivals`: the drain that has found every byte is still in its phase. -/
theorem drainNeedNotEnd : Obligations.DrainNeedNotEnd := by
  intro s i polled ws rest hs hd hi hr hq hl hw hv
  obtain ⟨t, run, draining, count, now⟩ :=
    State.Draining.arrivals (s := s) ⟨hs, hd, hi, hr, hq, hl⟩ (polled := polled) hw
      fun hp => ⟨hq, (hv hp).1, (hv hp).2⟩
  exact ⟨t.withAgenda rest, run rest, draining.phase, by simp [State.busy, draining.phase], draining.rxq,
    rfl, count, now⟩

/-- Settles O25, by `exec_drain_of_start`. -/
theorem drainStart : Obligations.DrainStart := fun _ hs => exec_drain_of_start hs

/-- Settles O26: START of `send` is `State.sendStart`, by whether anything has been encoded. -/
theorem sendStart : Obligations.SendStart := by
  intro s hs
  refine ⟨fun hf => ?_, fun hf => ?_⟩
  · rw [exec_send_of_start hs, State.sendStart_of_empty hf, State.raiseResult]
  · rw [exec_send_of_start hs, State.sendStart_of_framed hf, State.drainEnter_eq]

end Sys2Proof.Machine

/-! SUPPORT. What a micro-step of `waitbyte` can leave, and what a WB poll answers by what it finds; and the statements
of 43_receiver.md. -/

namespace Sys2Proof.Machine

variable {s t : State} {ms : BitVec 16}

/-! ## The micro-steps of WAITBYTE -/

theorem State.waitPoll_available (hp : s.poll = .available) : s.waitPoll = .next (s.raiseResult .ok) := by
  rw [State.waitPoll, hp]

theorem State.waitPoll_timeout (hp : s.poll = .timeout) : s.waitPoll = .next (s.raiseResult .timeout) := by
  rw [State.waitPoll, hp]

theorem State.waitPoll_pending (hp : s.poll = .pending) : s.waitPoll = .next s := by
  rw [State.waitPoll, hp]

theorem exec_waitbyte_of_wb (ms : BitVec 16) (hs : s.phase = .wb) : exec (.waitbyte ms) s = s.waitPoll :=
  exec_of_wb hs (by simp [phasesOf])

/-- A `waitbyte` that answers begins its wait or polls: no other phase is its own (rules R41, R182). -/
theorem exec_waitbyte_cases (h : exec (.waitbyte ms) s = .next t) :
    t = s.waitEnter ms ∨ s.waitPoll = .next t := by
  obtain ⟨hs, _⟩ | ⟨_, hi, _⟩ | ⟨_, hi, _⟩ | ⟨_, hi, _⟩ | ⟨_, _, wait⟩ := exec_cases h
  · exact .inl (Host.Outcome.next.inj (h.symm.trans (exec_waitbyte_of_start ms hs)))
  · simp [phasesOf] at hi
  · simp [phasesOf] at hi
  · simp [phasesOf] at hi
  · exact .inr wait

/-! ## The statements of 43_receiver.md -/

/-- Settles O58, by the four forms of `waitbyte`'s next state: the wait begun, the two results, a pending poll. -/
theorem waitbyteLeavesRegisters : Obligations.WaitbyteLeavesRegisters := by
  intro s t ms h
  obtain rfl | wait := exec_waitbyte_cases h
  · rfl
  · obtain ⟨_, rfl⟩ | ⟨_, _, rfl⟩ | rfl := State.waitPoll_cases wait <;> rfl

/-- Settles O28, by `exec_waitbyte_of_start`. -/
theorem waitbyteStart : Obligations.WaitbyteStart := fun s ms hs => by
  rw [exec_waitbyte_of_start ms hs, State.waitEnter_eq]

/-- Settles O32: the WB poll by each of the three things `Poll` can find. -/
theorem waitbytePollStep : Obligations.WaitbytePollStep := by
  intro s ms hs
  rw [exec_waitbyte_of_wb ms hs]
  exact ⟨fun found => State.waitPoll_available (s.poll_available_iff.mpr found),
    fun hq late => State.waitPoll_timeout (s.poll_timeout_iff.mpr ⟨hq, late⟩),
    fun hq early => State.waitPoll_pending (s.poll_pending_iff.mpr ⟨hq, early⟩)⟩

end Sys2Proof.Machine

/-! SUPPORT. The RX micro-step by what lies in `rxq`, and what a byte does by its index; and the statements of
44_decoder.md. -/

namespace Sys2Proof.Machine

variable {s : State} {i : Instr} {q : List Byte} {j : Nat}

/-! ## The RX micro-step -/

/-- With a byte in the queue the RX micro-step takes it (rules R201, R210). -/
theorem exec_rx_of_byte {b : Byte} (hs : s.phase = .rx) (hi : .rx ∈ phasesOf i) (hq : s.rxq = b :: q) :
    exec i s = .next ({ s with rxq := q }.takeByte b) :=
  (exec_of_rx hs hi).trans (State.rxPoll_cons hq)

/-- A reception that fails has RXBUF zero and every other byte of memory kept (rules R206, R208). -/
theorem State.failReceive_rxbufZeroed (s : State) (c : OpResult) : RxbufZeroed s (s.failReceive c) :=
  s.clearBuf_rxbufZeroed

/-! ## What a byte does by its index -/

theorem State.takeByte_of_head (h : s.rxcount.toNat ≤ 1) (b : Byte) :
    s.takeByte b = { s with rxcount := s.rxcount + 1 }.takeHead b := if_pos h

theorem State.takeByte_of_length (h : s.rxcount.toNat = 2) (b : Byte) :
    s.takeByte b = { s with rxcount := s.rxcount + 1 }.takeLength b :=
  (if_neg (by omega)).trans (if_pos h)

theorem State.takeByte_of_payload (h : s.rxcount.toNat = 3 + j) (hj : j < s.rxlen.toNat) (b : Byte) :
    s.takeByte b = { s with rxcount := s.rxcount + 1 }.takePayload j b := by
  have index : s.rxcount.toNat - 3 = j := by omega
  have more : s.rxcount.toNat < 3 + s.rxlen.toNat := by omega
  rw [← index]
  exact (if_neg (by omega)).trans ((if_neg (by omega)).trans (if_pos more))

theorem State.takeByte_of_checksum (h : s.rxcount.toNat = 3 + s.rxlen.toNat) (b : Byte) :
    s.takeByte b = { s with rxcount := s.rxcount + 1 }.takeChecksum b :=
  (if_neg (by omega)).trans ((if_neg (by omega)).trans (if_neg h.not_lt))

/-- A buffer write at an index the buffer has, address by address (rule R22). -/
theorem State.read_writeBuf (hm : s.mem.wf = true) {c : Buf} (hj : j < c.size) (b : Byte) (a : Nat) :
    (s.writeBuf c j b).mem.read a = if a = c.addr j then b else s.mem.read a := by
  rw [State.writeBuf, if_pos hj]
  exact Memory.read_write hm _ a b

/-- Payload byte `j` reaches its own RXBUF entry where the destination has room, and nothing else (rule R204). -/
theorem State.read_takePayload (hm : s.mem.wf = true) (hj : j < Buf.size .rx) (b : Byte) (a : Nat) :
    (s.takePayload j b).mem.read a =
      if j < s.rxcap.toNat ∧ a = Buf.addr .rx j then b else s.mem.read a := by
  rw [State.takePayload_eq]
  by_cases room : j < s.rxcap.toNat
  · simp only [room, true_and, if_true]
    exact State.read_writeBuf hm hj b a
  · simp only [room, false_and, if_false]

/-! ## The statements of 44_decoder.md -/

/-- Settles O27, by `exec_receive_of_start` and `State.receiveEnter_rxbufZeroed`. -/
theorem receiveStart : Obligations.ReceiveStart := fun s hs =>
  ⟨_, exec_receive_of_start hs, s.receiveEnter_rxbufZeroed, s.receiveEnter_eq⟩

/-- Settles O33: past the budget the poll is `State.failReceive`, within it pending. -/
theorem receivePollWithoutByte : Obligations.ReceivePollWithoutByte := by
  intro i s hs hi hq
  refine ⟨fun late => ?_, fun early => ?_⟩
  · exact ⟨_, (exec_of_rx hs hi).trans (State.rxPoll_expired hq late), s.failReceive_rxbufZeroed .timeout,
      s.failReceive_eq .timeout⟩
  · exact (exec_of_rx hs hi).trans (State.rxPoll_pending hq early)

/-- Settles O34: a byte at index 0 or 1 goes to `State.takeHead`. -/
theorem receiveMarkerAndEcho : Obligations.ReceiveMarkerAndEcho := by
  intro i s b q hs hi hq hc
  rw [exec_rx_of_byte hs hi hq, State.takeByte_of_head (by exact hc), State.takeHead_eq]

/-- Settles O35: the byte at index 2 goes to `State.takeLength`. -/
theorem receiveLength : Obligations.ReceiveLength := by
  intro i s b q hs hi hq hc
  have index : s.rxcount.toNat = 2 := by rw [hc]; rfl
  have counted : s.rxcount + 1 = 3 := by rw [hc]; rfl
  have trunc : (s.trunc || decide (s.rxcap.toNat < b.toNat)) =
      if s.rxcap.toNat < b.toNat then true else s.trunc := by split <;> simp [*]
  rw [exec_rx_of_byte hs hi hq, State.takeByte_of_length (by exact index), State.takeLength_eq, ← counted, ← trunc]

/-- Settles O36: the byte goes to `State.takePayload`, and `State.read_takePayload` says what that stores. -/
theorem receivePayloadByte : Obligations.ReceivePayloadByte := by
  intro i s b q j hm hs hi hq hc hj
  have taken := State.takeByte_of_payload (s := { s with rxq := q }) hc hj b
  have inside : j < Buf.size .rx := Nat.lt_of_lt_of_le hj (Nat.le_of_lt_succ s.rxlen.isLt)
  have stored := State.read_takePayload (s := { s with rxq := q, rxcount := s.rxcount + 1 }) hm inside b
  refine ⟨_, (exec_rx_of_byte hs hi hq).trans (congrArg _ taken), fun room => ?_, fun a other => ?_, ?_⟩
  · rw [stored, if_pos ⟨room, rfl⟩]
  · rw [stored, if_neg fun ⟨room, at_j⟩ => other.elim (· at_j) room.not_ge]
  · simp only [State.takePayload_eq]

/-- Settles O37: the byte goes to `State.takeChecksum`, which compares it with CKSUM. -/
theorem receiveChecksumByte : Obligations.ReceiveChecksumByte := by
  intro i s b q hs hi hq hc
  have taken := State.takeByte_of_checksum (s := { s with rxq := q }) hc b
  have run := (exec_rx_of_byte hs hi hq).trans (congrArg _ taken)
  refine ⟨fun good => ?_, fun bad => ?_⟩
  · exact run.trans (congrArg _ (if_pos good))
  · exact ⟨_, run.trans (congrArg _ (if_neg bad)), State.failReceive_rxbufZeroed _ .ckfail,
      State.failReceive_eq _ .ckfail⟩

/-- Settles O38: `RunsTo.receiveQueued`, and the right checksum byte ends it OK. -/
theorem receiveDecodesWellFormedFrame : Obligations.ReceiveDecodesWellFormedFrame := by
  intro s m e p q rest hs hd hr ht hm hlen hq ha
  rw [frameOf, List.append_assoc] at hq
  obtain ⟨t, run, received, left⟩ := RunsTo.receiveQueued hs hd hr hm hlen hq
  have run := run.run ha
  rw [List.length_replicate] at run
  obtain ⟨_, phase, outside, len, count, sum, rxck, trunc, good, _⟩ := received
  obtain ⟨result, rxbuf⟩ := good rfl
  rw [ht, Bool.false_or] at trunc
  exact ⟨_, run, result, phase, left, rfl, rxbuf, outside, trunc, len, count, sum, rxck⟩

end Sys2Proof.Machine

/-! SUPPORT. The host's entry to the decoder and the state it places a word in; and the statement of
45_transaction.md. -/

namespace Sys2Proof.Machine

theorem ofNat_word_mod (w : Nat) : BitVec.ofNat 32 (w % 2 ^ 32) = BitVec.ofNat 32 w :=
  BitVec.eq_of_toNat_eq (Nat.mod_mod w (2 ^ 32))

/-- The host's entry is the decoder on the low 32 bits, and answers exactly where the word is legal (rule R101). -/
theorem decodeTableWord_eq_some_iff {w : Nat} {i : Instr} :
    decodeTableWord 32 w = some i ↔ decode (BitVec.ofNat 32 w) = .ok i := by
  rw [decodeTableWord, if_pos (Nat.le_refl 32), ofNat_word_mod]
  cases decode (BitVec.ofNat 32 w) <;> simp

/-- The entry state of a 32-bit word: its acceptance with `rst` released, and the engine's move scheduled first. -/
theorem State.withFetchWord_eq (s : State) (w : Nat) :
    s.withFetchWord 32 w =
      { s.accept (BitVec.ofNat 32 w) with rst := false, agenda := .engine :: s.agenda } := by
  rw [State.withFetchWord, ofNat_word_mod]

/-! ## The statement of 45_transaction.md -/

/-- Settles O8: the entry state is an accepted one whose first move is the engine's, so `step_engine` runs the word. -/
theorem fetchWordRunsNext : Obligations.FetchWordRunsNext := by
  intro s w i h
  have legal : decode (BitVec.ofNat 32 w) = .ok i := decodeTableWord_eq_some_iff.mp h
  have accepted : (s.accept (BitVec.ofNat 32 w)).phase ≠ .idle := by simp
  exact (congrArg step (s.withFetchWord_eq w)).trans (step_engine rfl accepted rfl legal)

end Sys2Proof.Machine

/-! SUPPORT. What a step does to the record of a fault; and the statements of 60_exceptions.md. -/

namespace Sys2Proof.Machine

variable {s t : State} {m : Move}

/-! ## The record of faults -/

/-- A fault bit and its record, before and after: the record is never taken back, and it is set where the bit rises
(rule R258). -/
structure RecordFollows (bit seen bit' seen' : Bool) : Prop where
  kept    : seen = true → seen' = true
  records : bit = false → bit' = true → seen' = true

theorem RecordFollows.of_recorded {bit seen bit' seen' : Bool} (h : seen' = true) :
    RecordFollows bit seen bit' seen' := ⟨fun _ => h, fun _ _ => h⟩

theorem RecordFollows.of_not_risen {bit seen bit' seen' : Bool} (hs : seen' = seen) (hb : bit' = true → bit = true) :
    RecordFollows bit seen bit' seen' where
  kept h := hs.trans h
  records hf ht := absurd (hb ht) (by simp [hf])

theorem RecordFollows.of_same {bit seen bit' seen' : Bool} (hs : seen' = seen) (hb : bit' = bit) :
    RecordFollows bit seen bit' seen' := .of_not_risen hs hb.symm.trans

/-- The records of OVR and of ACCERR follow their bits from `s` to `t`. -/
structure State.RecordsFollow (s t : State) : Prop where
  ovr    : RecordFollows s.ovr s.ovrSeen t.ovr t.ovrSeen
  accerr : RecordFollows s.accerr s.accerrSeen t.accerr t.accerrSeen

theorem State.RecordsFollow.exec {i : Instr} (h : exec i s = .next t) : s.RecordsFollow t := by
  obtain ⟨_, ovr, accerr, _, _, _, _, _, _, ovrSeen, accerrSeen, _⟩ := OutsideEngine.mk.inj (exec_outsideEngine h)
  exact ⟨.of_same ovrSeen ovr, .of_same accerrSeen accerr⟩

/-- A host write raises a fault bit by an overrun or a bad access, and each is recorded (rules R254, R255). -/
theorem WriteLeaves.recordsFollow {a : BusAddr} {v : Word} (h : WriteLeaves s a v t) : s.RecordsFollow t := by
  cases h with
  | bad => exact ⟨.of_same rfl rfl, .of_recorded rfl⟩
  | overrun => exact ⟨.of_recorded rfl, .of_same rfl rfl⟩
  | clear =>
    exact ⟨.of_not_risen rfl fun h => (Bool.and_eq_true_iff.mp h).1,
      .of_not_risen rfl fun h => (Bool.and_eq_true_iff.mp h).1⟩
  | txbuf =>
    exact ⟨.of_same (State.writeBuf_ovrSeen ..) (State.writeBuf_ovr ..),
      .of_same (State.writeBuf_accerrSeen ..) (State.writeBuf_accerr ..)⟩
  | _ => exact ⟨.of_same rfl rfl, .of_same rfl rfl⟩

/-- Of the other moves a bad read alone raises a fault bit; reset lowers both and leaves their records
(notes/assumptions/13.md). -/
theorem MoveLeaves.recordsFollow (h : MoveLeaves s m t) : s.RecordsFollow t := by
  cases h with
  | runs _ _ _ _ h => exact .exec h
  | readsBad => exact ⟨.of_same rfl rfl, .of_recorded rfl⟩
  | writes _ _ h => exact h.recordsFollow
  | resets => exact ⟨.of_not_risen rfl nofun, .of_not_risen rfl nofun⟩
  | _ => exact ⟨.of_same rfl rfl, .of_same rfl rfl⟩

theorem State.RecordsFollow.faultRecorded (h : s.RecordsFollow t) (hs : s.faultRecorded = true) :
    t.faultRecorded = true :=
  Bool.or_eq_true_iff.mpr ((Bool.or_eq_true_iff.mp hs).imp h.ovr.kept h.accerr.kept)

/-! ## The statements of 60_exceptions.md -/

/-- Settles O12: the four kinds of address are the protected ones, and a write to one while busy is `State.overrun`. -/
theorem busyWriteIsOverrun : Obligations.BusyWriteIsOverrun := by
  intro s a v hr hp ha
  rw [hostWrite_of_busy v hr hp ((isProtectedAddr_iff a).mpr ha)]
  rfl

/-- Settles O53, by `MoveLeaves.recordsFollow` for the step's move. -/
theorem faultRecordIsKept : Obligations.FaultRecordIsKept := by
  intro s t h
  obtain ⟨a, d, h⟩ := step_leaves h
  have follow := h.recordsFollow
  exact ⟨follow.faultRecorded, follow.ovr.records, follow.accerr.records⟩

end Sys2Proof.Machine
